-- ==== Sys2Proof/Word.lean ====
section
/-! DEFINITION. The words of the block: a byte, a byte string, the 16-bit CRC (spec 00_scope.md section 5). -/

namespace Sys2Proof

/-- An 8-bit value. -/
abbrev Byte := BitVec 8

/-- A byte string in order of arrival: a line, or a token of a line. -/
abbrev Token := List Byte

/-- The 16-bit CRC register (40_crc.md R100). -/
abbrev Crc := BitVec 16

end Sys2Proof
end

