-- ==== Sys2Proof/Config.lean ====
section
/-! DEFINITION. The implementation parameters of 00_scope.md section 4, the two parameters a model
takes as an argument (93_implementation_defined.md U18), the byte values of R62, and the free
values of the output registers (10_state.md R22). -/

namespace Sys2Proof

/-- The two numbers on which the source document contradicts itself (D9, D10, U18): the bytes at
the end of a line that the CRC leaves out, and the tokens at its end that are not pair tokens. -/
structure Params where
  crcTail : Nat
  pairTail : Nat
deriving DecidableEq, Repr

/-- The decided values, `CRC_TAIL` = 5 and `PAIR_TAIL` = 2. -/
def Params.decided : Params := { crcTail := 5, pairTail := 2 }

namespace Config

def crcPoly : Crc := 0x1021#16
def crcInit : Crc := 0x0000#16
/-- D11. -/
def crcXorOut : Crc := 0x0000#16

def minTokens : Nat := 6
def headerTokens : Nat := 4
def maxLine : Nat := 255
def idMax : Nat := 32
/-- The range of `INT_W` = `SIG_W` = 32 bits, two's complement (D13, D14). -/
def intMin : Int := -2147483648
def intMax : Int := 2147483647

/-! Byte values (30_encoding.md R62). -/

def lineFeed : Byte := 0x0A#8
def carriageReturn : Byte := 0x0D#8
def percentByte : Byte := 0x25#8
def markByte : Byte := 0x2A#8
def plusByte : Byte := 0x2B#8
def delimByte : Byte := 0x2C#8
def minusByte : Byte := 0x2D#8
def pointByte : Byte := 0x2E#8

/-! Keywords (R68, R69). -/

def typeD : Token := [0x44#8]
def labelPa : Token := [0x50#8, 0x61#8]
def labelC : Token := [0x43#8]
def labelRh : Token := [0x25#8]
def labelPpm : Token := [0x70#8, 0x70#8, 0x6D#8]

/-! Free values: what an output register holds while it carries nothing (10_state.md R22, "a model
should not give it a value"). No body: nothing can be proved of them. The argument is a counter of
State, so each time is a fresh value (log 4). -/

opaque freeStatus : Nat → BitVec 3
opaque freePresent : Nat → BitVec 4
opaque freePa : Nat → BitVec 32
opaque freeCSig : Nat → BitVec 32
opaque freeCScale : Nat → BitVec 8
opaque freeRhSig : Nat → BitVec 32
opaque freeRhScale : Nat → BitVec 8
opaque freePpmSig : Nat → BitVec 32
opaque freePpmScale : Nat → BitVec 8
/-- `in_ready` at an edge of which no sample is given (20_memory.md R41, U10). -/
opaque freeInReady : Nat → Bool

end Config

end Sys2Proof
end

