-- ==== Sys2Proof/Syntax.lean ====
section
/-! DEFINITION. The operations of the block: one constructor per row of spec/opcode_table.json
(00_scope.md section 1: byte, character, frame and field level). -/

namespace Sys2Proof

inductive Instr where
  -- byte level, 41_line_parser.md R121, R122
  | lf
  | cr
  | data (b : Byte)
  -- character level, anywhere in a completed line, R142
  | delim
  -- character level, checksum token, R145, R66
  | mark
  | hex0 | hex1 | hex2 | hex3 | hex4 | hex5 | hex6 | hex7 | hex8 | hex9
  | hexA | hexB | hexC | hexD | hexE | hexF
  | hexALower | hexBLower | hexCLower | hexDLower | hexELower | hexFLower
  -- character level, value token, R67, R176, R178
  | dec0 | dec1 | dec2 | dec3 | dec4 | dec5 | dec6 | dec7 | dec8 | dec9
  | plus
  | minus
  | point
  -- frame level, R122, R141, R143
  | frameOverlong
  | frameEmpty
  | frameShort
  /-- `digits`: bytes 1 and later of the last token (R145). -/
  | cksum (digits : Token)
  /-- The span and the parsed checksum are intermediate values of the line (R147, R148). -/
  | crcCheck
  /-- `product` and `serial` are tokens 1 and 2 (R150). -/
  | idCheck (product serial : Token)
  /-- Token 0 is `"D"` (R151, R170). -/
  | frameD
  /-- `lineType` is any other token 0 (R151). -/
  | frameOther (lineType : Token)
  -- field level, R173 to R179; `value` is the value token of the pair
  | unitPa (value : Token)
  | unitC (value : Token)
  | unitRh (value : Token)
  | unitPpm (value : Token)
  | unitOther (value unit : Token)
deriving DecidableEq, Repr

end Sys2Proof
end

