-- ==== Sys2Proof/Machine/State.lean ====
section
/-! DEFINITION. The state of the block as plain data: the architectural registers (10_state.md R11
to R21), the input samples still to come and the output sequence, and the intermediate values of
one evaluation of `decode` (R16), which are idle between steps. -/

namespace Sys2Proof.Machine

/-! ## Results (30_encoding.md R78 to R81, 60_exceptions.md R200) -/

/-- The four rejection kinds (R200). -/
inductive RejectKind where
  | malformed
  | checksumMismatch
  | identityMismatch
  | unsupportedFrameType
deriving DecidableEq, Repr

/-- `sig / 10^scale` (R81). -/
structure DecimalResult where
  sig : Int
  scale : Nat
deriving DecidableEq, Repr

/-- A partial map from the four channels to values (R80). -/
structure Update where
  pressure : Option Int := none
  temperature : Option DecimalResult := none
  humidity : Option DecimalResult := none
  co2 : Option DecimalResult := none
deriving DecidableEq, Repr

/-- One result on the output port (R22). -/
inductive Event where
  | reject (kind : RejectKind)
  | accept (update : Update)
deriving DecidableEq, Repr

/-! ## Registers -/

/-- The output register group (R21). -/
structure OutRegs where
  valid : Bool
  status : BitVec 3
  present : BitVec 4
  pa : BitVec 32
  cSig : BitVec 32
  cScale : BitVec 8
  rhSig : BitVec 32
  rhScale : BitVec 8
  ppmSig : BitVec 32
  ppmScale : BitVec 8
deriving DecidableEq, Repr

/-- One expected-identity register group (R17, R18): `en`, `len`, 32 bytes. -/
structure IdRegs where
  en : Bool
  len : BitVec 6
  bytes : Vector Byte 32
deriving DecidableEq, Repr

/-! ## Ports (R10) -/

/-- The configuration ports. -/
structure CfgPorts where
  prodEn : Bool
  prodLen : BitVec 6
  prod : BitVec 256
  serEn : Bool
  serLen : BitVec 6
  ser : BitVec 256
deriving DecidableEq, Repr

/-- What one rising edge of `clk` brings: the input ports, and `canTake`, whether the block can take a
byte at this edge were `rst` 0. How many cycles `in_ready` stays low is not specified (R41, U10), so
`canTake` is part of the sample (log 2); what the block then drives is `PortSample.inReady`. -/
structure PortSample where
  rst : Bool
  cfg : CfgPorts
  inValid : Bool
  canTake : Bool
  inData : Byte
deriving DecidableEq, Repr

/-! ## Intermediate values of one evaluation (R16) -/

/-- The checksum token under evaluation (R145): bytes seen, value, ill-formed. -/
structure CksumAcc where
  pos : Nat := 0
  value : Nat := 0
  bad : Bool := false
deriving DecidableEq, Repr

/-- The literal under evaluation (R176, R178). `dec`: a decimal literal; `pos`: bytes seen; `bad`:
a byte that is not of the grammar was seen. -/
structure LitAcc where
  dec : Bool := false
  pos : Nat := 0
  neg : Bool := false
  m : Nat := 0
  nint : Nat := 0
  nfrac : Nat := 0
  point : Bool := false
  bad : Bool := false
deriving DecidableEq, Repr

/-- The intermediate values of `decode` (R140). -/
structure Work where
  tokens : List Token := []
  cur : Token := []
  ck : CksumAcc := {}
  parsed : Nat := 0
  lit : LitAcc := {}
  update : Update := {}
  verdict : Option Event := none
deriving DecidableEq, Repr

/-! ## The state -/

structure State where
  /-- `LB`: (index, byte) pairs in canonical form; an unlisted index reads 0x00 (log 7). -/
  lb : List Host.Cell
  /-- `LEN`. -/
  len : BitVec 8
  /-- `OVF`. -/
  ovf : Bool
  /-- `CFG_PROD_EN`, `CFG_PROD_LEN`, `CFG_PROD`. -/
  cfgProd : IdRegs
  /-- `CFG_SER_EN`, `CFG_SER_LEN`, `CFG_SER`. -/
  cfgSer : IdRegs
  /-- The `OUT_*` registers. -/
  out : OutRegs
  /-- The port `in_ready` as the block drove it at the last edge (R10, R27). -/
  inReady : Bool
  /-- The port samples still to come, the next edge first. -/
  rx : List PortSample
  /-- The output sequence of the session, oldest first (R22, R124). -/
  events : List Event
  /-- The intermediate values of the evaluation in hand; idle between steps. -/
  work : Work
  /-- `CRC_TAIL` and `PAIR_TAIL` (U18). -/
  params : Params
  /-- Picks the next free value of the output registers (log 4); the model's own. -/
  freeIx : Nat
deriving DecidableEq, Repr

/-! ## Stops -/

inductive Fault where
  /-- Raised by the store operation of the line buffer for an index at or above 255, which does not
  exist (20_memory.md R43). `DATA` stores only below 255, so no instruction and no step raises it.
  Safe. -/
  | noSuchIndex
deriving DecidableEq, Repr

inductive Refusal where
  /-- Raised by `exec` for an instruction that has no meaning yet. Safe. -/
  | notModelled (mnemonic : String)
  /-- Raised by the reset operation when it would load an enabled expected identity of length 33 to
  63, and by `ID_CHECK` in a state that holds one: "a model should refuse such a configuration"
  (R232, U6). Safe. -/
  | illegalIdentityLength
deriving DecidableEq, Repr

/-! ## Reset -/

/-- An expected-identity group that is absent and holds zeros. -/
def IdRegs.absent : IdRegs := { en := false, len := 0#6, bytes := Vector.replicate 32 0#8 }

/-- `OUT_VALID` 0; the other output registers, unspecified in the spec, hold zeros (log 5). -/
def OutRegs.atReset : OutRegs :=
  { valid := false, status := 0#3, present := 0#4, pa := 0#32, cSig := 0#32, cScale := 0#8,
    rhSig := 0#32, rhScale := 0#8, ppmSig := 0#32, ppmScale := 0#8 }

/-- The machine right after reset (R27), reset having been asserted with all `cfg_*` ports at 0
(log 6); `in_ready` is 0 while `rst = 1`. -/
def State.reset : State :=
  { lb := [], len := 0#8, ovf := false, cfgProd := IdRegs.absent, cfgSer := IdRegs.absent,
    out := OutRegs.atReset, inReady := false, rx := [], events := [], work := {}, params := Params.decided,
    freeIx := 0 }

end Sys2Proof.Machine
end

