-- ==== Sys2Proof/Machine/Ops.lean ====
section
/-! DEFINITION. The shared operations over the state: the line buffer, sequencing, the rejection and
the emission of an event (60_exceptions.md R210), the strobe and its end (10_state.md R21, R22). -/

namespace Sys2Proof.Machine

/-- The outcome of one operation. -/
abbrev Result := Host.Outcome State Fault Refusal

/-- `f`, then `g` on the state it leaves; a stop stays a stop. -/
def andThen (r : Result) (g : State → Result) : Result :=
  match r with
  | .next s => g s
  | .fault e => .fault e
  | .refused e => .refused e

/-- `f` for each byte, in order of arrival (20_memory.md R45). -/
def forBytes (f : Byte → State → Result) : Token → State → Result
  | [], s => .next s
  | b :: r, s => andThen (f b s) (forBytes f r)

/-! ## The line buffer (20_memory.md R43) -/

namespace Memory

/-- What an unlisted index reads as (log 7). -/
def unwritten : Byte := 0x00#8

def read (m : List Host.Cell) (a : Nat) : Byte :=
  match m with
  | [] => unwritten
  | (k, v) :: r => if k = a then v else read r a

/-- `r` with the entry for `a` in front, unless `v` is what an unlisted index reads as. -/
def cons (a : Nat) (v : Byte) (r : List Host.Cell) : List Host.Cell :=
  if v = unwritten then r else (a, v) :: r

def write (m : List Host.Cell) (a : Nat) (v : Byte) : List Host.Cell :=
  match m with
  | [] => cons a v []
  | (k, w) :: r =>
    if k < a then (k, w) :: write r a v
    else if k = a then cons a v r
    else cons a v ((k, w) :: r)

/-- Every index of `m` is at least `lo` and below 255, they rise strictly, and no entry equals what
an unlisted index reads as. -/
def wfFrom (lo : Nat) (m : List Host.Cell) : Bool :=
  match m with
  | [] => true
  | (k, v) :: r =>
    decide (lo ≤ k) && decide (k < Config.maxLine) && !(v == unwritten) && wfFrom (k + 1) r

/-- The canonical form. -/
def wf (m : List Host.Cell) : Bool := wfFrom 0 m

end Memory

/-- `MemRead(i, 1)`. -/
def State.load (s : State) (i : Nat) : Byte := Memory.read s.lb i

/-- `MemWrite(i, 1, v)`; an index at or above 255 does not exist. -/
def storeByte (i : Nat) (v : Byte) (s : State) : Result :=
  if i < Config.maxLine then .next { s with lb := Memory.write s.lb i v }
  else .fault .noSuchIndex

/-- `LB[0 .. LEN)`, the line under assembly (R12). -/
def State.line (s : State) : Token := (List.range s.len.toNat).map s.load

/-! ## The intermediate values -/

def State.setWork (s : State) (w : Work) : State := { s with work := w }

/-- The evaluation has its result. -/
def State.decided (s : State) : Bool := s.work.verdict.isSome

/-- The next check, unless an earlier one has rejected the line (60_exceptions.md R205: "nothing
after the first failing check is evaluated"). -/
def unlessDecided (g : State → Result) (s : State) : Result :=
  if s.decided then .next s else g s

/-! ## The rejection -/

/-- `raise <Kind>` (00_scope.md section 5): the evaluation of this line ends with `Reject(kind)`, and
no field of the update is produced. It changes no register (R210). -/
def raise (k : RejectKind) (s : State) : State :=
  s.setWork { s.work with verdict := some (.reject k), update := {} }

/-! ## Output (R21, R22, R78 to R81) -/

/-- The status code (R78). -/
def statusCode : Event → BitVec 3
  | .accept _ => 0#3
  | .reject .malformed => 1#3
  | .reject .checksumMismatch => 2#3
  | .reject .identityMismatch => 3#3
  | .reject .unsupportedFrameType => 4#3

/-- The present mask (R79): bit 0 pressure, 1 temperature, 2 humidity, 3 CO2. -/
def presentMask (u : Update) : BitVec 4 :=
  BitVec.ofBool u.co2.isSome ++ BitVec.ofBool u.humidity.isSome
    ++ BitVec.ofBool u.temperature.isSome ++ BitVec.ofBool u.pressure.isSome

/-- A 32-bit two's complement port (R80), free where the channel is absent (R22). -/
def intPort (v : Option Int) (free : BitVec 32) : BitVec 32 :=
  match v with
  | some x => BitVec.ofInt 32 x
  | none => free

/-- An 8-bit unsigned scale port (R80), free where the channel is absent (R22). -/
def scalePort (v : Option Nat) (free : BitVec 8) : BitVec 8 :=
  match v with
  | some x => BitVec.ofNat 8 x
  | none => free

/-- The update an event carries; a rejection carries none. -/
def eventUpdate : Event → Update
  | .accept u => u
  | .reject _ => {}

/-- The output registers while they carry an event; what R22 leaves unspecified is free value `n`. -/
def driveEvent (n : Nat) (e : Event) : OutRegs :=
  { valid := true
    status := statusCode e
    present := presentMask (eventUpdate e)
    pa := intPort (eventUpdate e).pressure (Config.freePa n)
    cSig := intPort ((eventUpdate e).temperature.map (·.sig)) (Config.freeCSig n)
    cScale := scalePort ((eventUpdate e).temperature.map (·.scale)) (Config.freeCScale n)
    rhSig := intPort ((eventUpdate e).humidity.map (·.sig)) (Config.freeRhSig n)
    rhScale := scalePort ((eventUpdate e).humidity.map (·.scale)) (Config.freeRhScale n)
    ppmSig := intPort ((eventUpdate e).co2.map (·.sig)) (Config.freePpmSig n)
    ppmScale := scalePort ((eventUpdate e).co2.map (·.scale)) (Config.freePpmScale n) }

/-- The output registers while `OUT_VALID` is 0: every other one is free value `n` (R22). -/
def driveIdle (n : Nat) : OutRegs :=
  { valid := false
    status := Config.freeStatus n
    present := Config.freePresent n
    pa := Config.freePa n
    cSig := Config.freeCSig n
    cScale := Config.freeCScale n
    rhSig := Config.freeRhSig n
    rhScale := Config.freeRhScale n
    ppmSig := Config.freePpmSig n
    ppmScale := Config.freePpmScale n }

/-- `emit e` (R122): the event is appended to the output sequence and strobed on the ports. -/
def emit (e : Event) (s : State) : State :=
  { s with out := driveEvent s.freeIx e, events := s.events ++ [e], freeIx := s.freeIx + 1 }

/-- The strobe lasts one clock cycle (R21): `OUT_VALID` returns to 0. -/
def strobeEnd (s : State) : State :=
  { s with out := driveIdle s.freeIx, freeIx := s.freeIx + 1 }

/-- The return of every terminator step to the beginning of a line (R211, 41_line_parser.md R125):
the event, if the line has one, is emitted, `LEN` and `OVF` are cleared, and no intermediate value
survives (R16). -/
def finishLine (s : State) : State :=
  match s.work.verdict with
  | some e => { emit e s with len := 0#8, ovf := false, work := {} }
  | none => { s with len := 0#8, ovf := false, work := {} }

end Sys2Proof.Machine
end

