-- ==== Sys2Proof/Machine/Flags.lean ====
section
/-! DEFINITION. The one status flag of the block, `OVF` (10_state.md R15), and the saturating length
it guards (R13). There are no condition codes. -/

namespace Sys2Proof.Machine

/-- The line buffer takes another byte: `LEN < MAX_LINE`. -/
def State.hasRoom (s : State) : Bool := decide (s.len.toNat < Config.maxLine)

/-- `LEN <- LEN + 1`; applied only below 255, so it never wraps (R13). -/
def incLen (s : State) : State := { s with len := s.len + 1#8 }

/-- `OVF <- 1` (R121). -/
def setOvf (s : State) : State := { s with ovf := true }

/-- "Beginning of a line" is `LEN = 0 and OVF = 0` (R125). -/
def State.atLineStart (s : State) : Bool := s.len == 0#8 && !s.ovf

end Sys2Proof.Machine
end

