-- ==== Sys2Proof/WellFormed.lean ====
section
/-! DEFINITION. Which operands an operation may have: what can stand in a line (30_encoding.md R63,
R64, R74) and what selects the row (R68, R69). -/

namespace Sys2Proof

/-- A byte that ends a line (R60). -/
def isTerminator (b : Byte) : Bool := b == Config.lineFeed || b == Config.carriageReturn

/-- A byte that can stand inside a token: not a delimiter and not a terminator (R64). -/
def isTokenByte (b : Byte) : Bool := !(isTerminator b) && !(b == Config.delimByte)

/-- A byte string that can be a token. -/
def isToken (t : Token) : Bool := t.all isTokenByte

/-- One of the four unit labels (R69). -/
def isUnitLabel (u : Token) : Bool :=
  u == Config.labelPa || u == Config.labelC || u == Config.labelRh || u == Config.labelPpm

/-- The operands are what the encoding admits. -/
def Instr.wf : Instr → Bool
  | .data b => !(isTerminator b)
  | .cksum digits => isToken digits
  | .idCheck product serial => isToken product && isToken serial
  | .frameOther lineType => isToken lineType && !(lineType == Config.typeD)
  | .unitPa value | .unitC value | .unitRh value | .unitPpm value => isToken value
  | .unitOther value unit => isToken value && isToken unit && !(isUnitLabel unit)
  | .lf | .cr | .delim | .mark
  | .hex0 | .hex1 | .hex2 | .hex3 | .hex4 | .hex5 | .hex6 | .hex7 | .hex8 | .hex9
  | .hexA | .hexB | .hexC | .hexD | .hexE | .hexF
  | .hexALower | .hexBLower | .hexCLower | .hexDLower | .hexELower | .hexFLower
  | .dec0 | .dec1 | .dec2 | .dec3 | .dec4 | .dec5 | .dec6 | .dec7 | .dec8 | .dec9
  | .plus | .minus | .point | .frameOverlong | .frameEmpty | .frameShort | .crcCheck
  | .frameD => true

end Sys2Proof
end

