-- ==== Sys2Proof/Decode.lean ====
section
/-! DEFINITION. The decoder: which operation a byte or a token is, in the context it stands in
(30_encoding.md R63, R64, R82), rejecting by name; and the encoder, from the same tables. -/

namespace Sys2Proof

/-- Where bytes stand: the `format` column of spec/opcode_table.json. -/
inductive Context where
  /-- The input stream, one byte (format `byte`). -/
  | byte
  /-- A byte of a completed line (format `char:line`). -/
  | lineChar
  /-- A byte of the last token (format `char:checksum-token`). -/
  | cksumChar
  /-- A byte of the value token of a pair (format `char:value-token`). -/
  | valueChar
  /-- The whole last token (format `last-token`). -/
  | lastToken
  /-- Tokens 1 and 2 with the delimiter between them (format `token1,token2`). -/
  | idTokens
  /-- The whole token 0 (format `token0`). -/
  | token0
  /-- A value token and its unit token with the delimiter between them (format `unit-token`). -/
  | pair
  /-- A completed line, selected by a condition and not by a byte pattern (format `line`). -/
  | condition
deriving DecidableEq, Repr

/-- Why the decoder gives no operation. -/
inductive DecodeError where
  /-- The context takes one byte and there is another number of them. -/
  | notOneByte
  /-- An ordinary byte of a token: it has no operation of its own (R82). -/
  | ordinaryTokenByte
  /-- A byte that makes the checksum token ill-formed (R70). -/
  | notChecksumChar
  /-- A byte that makes a literal ill-formed (R71, R72). -/
  | notLiteralChar
  /-- A last token that does not begin with the mark (R145). -/
  | noMark
  /-- The context takes two tokens and there is another number of them. -/
  | notTwoTokens
  /-- Rows selected by a condition on the line have no bytes to decode (R82). -/
  | noBytePattern
deriving DecidableEq, Repr

/-! ## Characters -/

/-- R66. -/
def hexval (b : Byte) : Option Nat :=
  if 0x30 ≤ b.toNat ∧ b.toNat ≤ 0x39 then some (b.toNat - 0x30)
  else if 0x41 ≤ b.toNat ∧ b.toNat ≤ 0x46 then some (b.toNat - 0x41 + 10)
  else if 0x61 ≤ b.toNat ∧ b.toNat ≤ 0x66 then some (b.toNat - 0x61 + 10)
  else none

/-- R67. -/
def decval (b : Byte) : Option Nat :=
  if 0x30 ≤ b.toNat ∧ b.toNat ≤ 0x39 then some (b.toNat - 0x30) else none

/-- The rows of format `char:checksum-token`. -/
def cksumCharRows : List (Byte × Instr) :=
  [(0x2A#8, .mark),
   (0x30#8, .hex0),
   (0x31#8, .hex1),
   (0x32#8, .hex2),
   (0x33#8, .hex3),
   (0x34#8, .hex4),
   (0x35#8, .hex5),
   (0x36#8, .hex6),
   (0x37#8, .hex7),
   (0x38#8, .hex8),
   (0x39#8, .hex9),
   (0x41#8, .hexA),
   (0x42#8, .hexB),
   (0x43#8, .hexC),
   (0x44#8, .hexD),
   (0x45#8, .hexE),
   (0x46#8, .hexF),
   (0x61#8, .hexALower),
   (0x62#8, .hexBLower),
   (0x63#8, .hexCLower),
   (0x64#8, .hexDLower),
   (0x65#8, .hexELower),
   (0x66#8, .hexFLower)]

/-- The rows of format `char:value-token`. -/
def valueCharRows : List (Byte × Instr) :=
  [(0x30#8, .dec0),
   (0x31#8, .dec1),
   (0x32#8, .dec2),
   (0x33#8, .dec3),
   (0x34#8, .dec4),
   (0x35#8, .dec5),
   (0x36#8, .dec6),
   (0x37#8, .dec7),
   (0x38#8, .dec8),
   (0x39#8, .dec9),
   (0x2B#8, .plus), (0x2D#8, .minus), (0x2E#8, .point)]

/-- The operation of the row whose byte is `b`. -/
def lookupRow (rows : List (Byte × Instr)) (b : Byte) : Option Instr :=
  match rows with
  | [] => none
  | (k, i) :: rest => if k = b then some i else lookupRow rest b

/-- R63: the whole byte tells `LF`, `CR` and `DATA` apart. -/
def decodeByte (b : Byte) : Instr :=
  if b = Config.lineFeed then .lf
  else if b = Config.carriageReturn then .cr
  else .data b

/-- R64: a comma is a delimiter wherever it stands; every other byte is a token byte. -/
def decodeLineChar (b : Byte) : Except DecodeError Instr :=
  if b = Config.delimByte then .ok .delim else .error .ordinaryTokenByte

def decodeCksumChar (b : Byte) : Except DecodeError Instr :=
  match lookupRow cksumCharRows b with
  | some i => .ok i
  | none => .error .notChecksumChar

def decodeValueChar (b : Byte) : Except DecodeError Instr :=
  match lookupRow valueCharRows b with
  | some i => .ok i
  | none => .error .notLiteralChar

/-! ## Tokens -/

/-- R145: `CKSUM` is selected by the first byte of the last token. -/
def decodeLastToken : Token → Except DecodeError Instr
  | [] => .error .noMark
  | b :: digits => if b = Config.markByte then .ok (.cksum digits) else .error .noMark

/-- R151: token 0 is compared, whole and bytewise, with `"D"`. -/
def decodeToken0 (t : Token) : Instr :=
  if t = Config.typeD then .frameD else .frameOther t

/-- R172: the unit token is compared, whole and bytewise, with the four labels. -/
def decodePair (value unit : Token) : Instr :=
  if unit = Config.labelPa then .unitPa value
  else if unit = Config.labelC then .unitC value
  else if unit = Config.labelRh then .unitRh value
  else if unit = Config.labelPpm then .unitPpm value
  else .unitOther value unit

/-- The first token of `t` and, where a delimiter ends it, the bytes after that delimiter. -/
def cutFirst : Token → Token × Option Token
  | [] => ([], none)
  | b :: r =>
    if b = Config.delimByte then ([], some r)
    else ((b :: (cutFirst r).1), (cutFirst r).2)

/-- `t` as exactly two tokens. -/
def twoTokens (t : Token) : Option (Token × Token) :=
  match cutFirst t with
  | (_, none) => none
  | (a, some r) =>
    match cutFirst r with
    | (c, none) => some (a, c)
    | (_, some _) => none

/-! ## The decoder, total on any context and bytes -/

def decodeChar (f : Byte → Except DecodeError Instr) : Token → Except DecodeError Instr
  | [b] => f b
  | _ => .error .notOneByte

def decode (c : Context) (t : Token) : Except DecodeError Instr :=
  match c with
  | .byte => decodeChar (fun b => .ok (decodeByte b)) t
  | .lineChar => decodeChar decodeLineChar t
  | .cksumChar => decodeChar decodeCksumChar t
  | .valueChar => decodeChar decodeValueChar t
  | .lastToken => decodeLastToken t
  | .idTokens =>
    match twoTokens t with
    | some (product, serial) => .ok (.idCheck product serial)
    | none => .error .notTwoTokens
  | .token0 => .ok (decodeToken0 t)
  | .pair =>
    match twoTokens t with
    | some (value, unit) => .ok (decodePair value unit)
    | none => .error .notTwoTokens
  | .condition => .error .noBytePattern

/-! ## The encoder -/

/-- The context a row's words stand in (its `format`). -/
def Instr.context : Instr → Context
  | .lf | .cr | .data _ => .byte
  | .delim => .lineChar
  | .mark
  | .hex0 | .hex1 | .hex2 | .hex3 | .hex4 | .hex5 | .hex6 | .hex7 | .hex8 | .hex9 | .hexA | .hexB | .hexC | .hexD | .hexE | .hexF | .hexALower | .hexBLower | .hexCLower | .hexDLower | .hexELower | .hexFLower => .cksumChar
  | .dec0 | .dec1 | .dec2 | .dec3 | .dec4 | .dec5 | .dec6 | .dec7 | .dec8 | .dec9
  | .plus | .minus | .point => .valueChar
  | .frameOverlong | .frameEmpty | .frameShort | .crcCheck => .condition
  | .cksum _ => .lastToken
  | .idCheck _ _ => .idTokens
  | .frameD | .frameOther _ => .token0
  | .unitPa _ | .unitC _ | .unitRh _ | .unitPpm _ | .unitOther _ _ => .pair

/-- The bytes of an operation in its context; the rows selected by a condition have none (R82). -/
def encode : Instr → Token
  | .lf => [0x0A#8]
  | .cr => [0x0D#8]
  | .data b => [b]
  | .delim => [0x2C#8]
  | .mark => [0x2A#8]
  | .hex0 => [0x30#8]
  | .hex1 => [0x31#8]
  | .hex2 => [0x32#8]
  | .hex3 => [0x33#8]
  | .hex4 => [0x34#8]
  | .hex5 => [0x35#8]
  | .hex6 => [0x36#8]
  | .hex7 => [0x37#8]
  | .hex8 => [0x38#8]
  | .hex9 => [0x39#8]
  | .hexA => [0x41#8]
  | .hexB => [0x42#8]
  | .hexC => [0x43#8]
  | .hexD => [0x44#8]
  | .hexE => [0x45#8]
  | .hexF => [0x46#8]
  | .hexALower => [0x61#8]
  | .hexBLower => [0x62#8]
  | .hexCLower => [0x63#8]
  | .hexDLower => [0x64#8]
  | .hexELower => [0x65#8]
  | .hexFLower => [0x66#8]
  | .dec0 => [0x30#8]
  | .dec1 => [0x31#8]
  | .dec2 => [0x32#8]
  | .dec3 => [0x33#8]
  | .dec4 => [0x34#8]
  | .dec5 => [0x35#8]
  | .dec6 => [0x36#8]
  | .dec7 => [0x37#8]
  | .dec8 => [0x38#8]
  | .dec9 => [0x39#8]
  | .plus => [0x2B#8]
  | .minus => [0x2D#8]
  | .point => [0x2E#8]
  | .frameOverlong | .frameEmpty | .frameShort | .crcCheck => []
  | .cksum digits => Config.markByte :: digits
  | .idCheck product serial => product ++ Config.delimByte :: serial
  | .frameD => Config.typeD
  | .frameOther lineType => lineType
  | .unitPa value => value ++ Config.delimByte :: Config.labelPa
  | .unitC value => value ++ Config.delimByte :: Config.labelC
  | .unitRh value => value ++ Config.delimByte :: Config.labelRh
  | .unitPpm value => value ++ Config.delimByte :: Config.labelPpm
  | .unitOther value unit => value ++ Config.delimByte :: unit

/-! ## Words as spec/opcode_table.json numbers them -/

/-- The word as a token: a row wider than a byte is read big-endian (R82, "first byte in the most
significant position"). -/
def tokenOfWord (nbits w : Nat) : Token :=
  (List.range (nbits / 8)).map fun i => BitVec.ofNat 8 (w >>> (8 * (nbits / 8 - 1 - i)))

/-- A word of one of the token rows whose whole token is fixed: `FRAME_D` and the unit labels. The
value token of a unit row has no bits in the table and is empty (log 13). -/
def decodeKeywordWord (t : Token) : Option Instr :=
  if t = Config.typeD then some .frameD
  else if isUnitLabel t then some (decodePair [] t)
  else none

/-- A word of one of the one-byte rows, in the order of the table. -/
def decodeCharWord (b : Byte) : Option Instr :=
  match decodeByte b with
  | .data _ =>
    match decodeLineChar b with
    | .ok i => some i
    | .error _ =>
      match lookupRow cksumCharRows b with
      | some i => some i
      | none => lookupRow valueCharRows b
  | i => some i

/-- The table gives no context with a word, and one byte is several operations (R64, R82): the word
is read as a whole-token keyword first, then as the first one-byte row of the table that has its
byte, and as `DATA` where neither has it (log 13). -/
def decodeTableWord (nbits w : Nat) : Option Instr :=
  match decodeKeywordWord (tokenOfWord nbits w) with
  | some i => some i
  | none =>
    match decodeCharWord (BitVec.ofNat 8 w) with
    | some i => some i
    | none => some (.data (BitVec.ofNat 8 w))

end Sys2Proof
end

