-- ==== Sys2Proof/Machine/Operands.lean ====
section
/-! DEFINITION. Where operations find their operands: the tokens of a frame and its pairs
(30_encoding.md R65, 43_field_decoder.md R171), the covered span (R147), the expected identity (R17,
R18), and the value of a literal once its bytes are in (R176, R178). -/

namespace Sys2Proof.Machine

/-! ## Tokens -/

/-- `tokens[i]`. -/
def tokenAt (tokens : List Token) (i : Nat) : Token := tokens.getD i []

/-- `tokens[N-1]`. -/
def lastToken (tokens : List Token) : Token := tokens.getLastD []

/-- `P = floor((N - 4 - PAIR_TAIL) / 2)` (R65, R170). -/
def pairCount (p : Params) (n : Nat) : Nat := (n - Config.headerTokens - p.pairTail) / 2

/-- `pairs[i] = (tokens[4+2i], tokens[5+2i])` (R171). -/
def pairsOf (p : Params) (tokens : List Token) : List (Token × Token) :=
  (List.range (pairCount p tokens.length)).map fun i =>
    (tokenAt tokens (Config.headerTokens + 2 * i), tokenAt tokens (Config.headerTokens + 1 + 2 * i))

/-- The line without its last `CRC_TAIL` bytes (R147). -/
def coveredSpan (p : Params) (line : Token) : Token := line.take (line.length - p.crcTail)

/-! ## The expected identity -/

/-- An enabled length of 33 to 63 is illegal (U6); a length is ignored while the enable is 0. -/
def IdRegs.legal (r : IdRegs) : Bool := !r.en || decide (r.len.toNat ≤ Config.idMax)

/-- The abstract value: none when the enable is 0, else the first `len` bytes (R17). -/
def IdRegs.expected (r : IdRegs) : Option Token :=
  if r.en then some (r.bytes.toList.take r.len.toNat) else none

/-- An expectation that is set differs from the token: byte-string inequality (R150). -/
def differs (expected : Option Token) (t : Token) : Bool :=
  match expected with
  | none => false
  | some e => !(e == t)

/-- Both expected-identity groups are legal. -/
def State.cfgLegal (s : State) : Bool := s.cfgProd.legal && s.cfgSer.legal

/-! ## The value of a literal -/

/-- The range of `INT_W` and `SIG_W` (R176, R178). -/
def inRange (v : Int) : Option Int := if v < Config.intMin ∨ Config.intMax < v then none else some v

/-- The accumulated magnitude with the sign. -/
def LitAcc.signed (l : LitAcc) : Int := if l.neg then -(l.m : Int) else (l.m : Int)

/-- The value of an integer literal, or none (R71, R176). -/
def LitAcc.intValue (l : LitAcc) : Option Int :=
  if l.bad || l.point || l.nint == 0 then none else inRange l.signed

/-- The value of a decimal literal, or none (R72, R178). -/
def LitAcc.decValue (l : LitAcc) : Option DecimalResult :=
  if l.bad || l.nint == 0 || (l.point && l.nfrac == 0) then none
  else (inRange l.signed).map fun v => { sig := v, scale := l.nfrac }

end Sys2Proof.Machine
end

