-- ==== Sys2Proof/Machine/Checksum.lean ====
section
/-! DEFINITION. The checksum token (42_frame_validator.md R145): `MARK`, the twenty-two hexadecimal
digits and `CKSUM`. The digits are most significant first, the value is a natural number and is
not bounded. -/

namespace Sys2Proof.Machine

def setCk (c : CksumAcc) (s : State) : State := s.setWork { s.work with ck := c }

/-- No byte of the checksum token is seen yet: `v = 0`. -/
def beginCksum (s : State) : State := setCk {} s

/-- A byte that has no place where it stands: the token is ill-formed (R70, R82). -/
def cksumIllFormed (s : State) : State :=
  setCk { s.work.ck with pos := s.work.ck.pos + 1, bad := true } s

/-- `v = v * 16 + d`, for a digit at byte 1 or later; a digit at byte 0 stands where the mark must
(R145). -/
def cksumDigit (d : Nat) (s : State) : State :=
  if s.work.ck.pos = 0 then cksumIllFormed s
  else setCk { s.work.ck with pos := s.work.ck.pos + 1, value := s.work.ck.value * 16 + d } s

/-- `MARK`: meaningful only as byte 0 of the last token; a second one makes it ill-formed (R145). -/
def execMark (s : State) : Result :=
  if s.work.ck.pos = 0 then .next (setCk { s.work.ck with pos := s.work.ck.pos + 1 } s)
  else .next (cksumIllFormed s)

/-! The hexadecimal digits (R66): one definition a row, the value the row gives. -/

def execHex0 (s : State) : Result := .next (cksumDigit 0 s)

def execHex1 (s : State) : Result := .next (cksumDigit 1 s)

def execHex2 (s : State) : Result := .next (cksumDigit 2 s)

def execHex3 (s : State) : Result := .next (cksumDigit 3 s)

def execHex4 (s : State) : Result := .next (cksumDigit 4 s)

def execHex5 (s : State) : Result := .next (cksumDigit 5 s)

def execHex6 (s : State) : Result := .next (cksumDigit 6 s)

def execHex7 (s : State) : Result := .next (cksumDigit 7 s)

def execHex8 (s : State) : Result := .next (cksumDigit 8 s)

def execHex9 (s : State) : Result := .next (cksumDigit 9 s)

def execHexA (s : State) : Result := .next (cksumDigit 10 s)

def execHexB (s : State) : Result := .next (cksumDigit 11 s)

def execHexC (s : State) : Result := .next (cksumDigit 12 s)

def execHexD (s : State) : Result := .next (cksumDigit 13 s)

def execHexE (s : State) : Result := .next (cksumDigit 14 s)

def execHexF (s : State) : Result := .next (cksumDigit 15 s)

def execHexALower (s : State) : Result := .next (cksumDigit 10 s)

def execHexBLower (s : State) : Result := .next (cksumDigit 11 s)

def execHexCLower (s : State) : Result := .next (cksumDigit 12 s)

def execHexDLower (s : State) : Result := .next (cksumDigit 13 s)

def execHexELower (s : State) : Result := .next (cksumDigit 14 s)

def execHexFLower (s : State) : Result := .next (cksumDigit 15 s)

/-- One byte of the checksum token (R82: a byte outside the set makes it ill-formed). -/
def runCksumChar (b : Byte) (s : State) : Result :=
  match decodeCksumChar b with
  | .ok .mark => execMark s
  | .ok .hex0 => execHex0 s
  | .ok .hex1 => execHex1 s
  | .ok .hex2 => execHex2 s
  | .ok .hex3 => execHex3 s
  | .ok .hex4 => execHex4 s
  | .ok .hex5 => execHex5 s
  | .ok .hex6 => execHex6 s
  | .ok .hex7 => execHex7 s
  | .ok .hex8 => execHex8 s
  | .ok .hex9 => execHex9 s
  | .ok .hexA => execHexA s
  | .ok .hexB => execHexB s
  | .ok .hexC => execHexC s
  | .ok .hexD => execHexD s
  | .ok .hexE => execHexE s
  | .ok .hexF => execHexF s
  | .ok .hexALower => execHexALower s
  | .ok .hexBLower => execHexBLower s
  | .ok .hexCLower => execHexCLower s
  | .ok .hexDLower => execHexDLower s
  | .ok .hexELower => execHexELower s
  | .ok .hexFLower => execHexFLower s
  | _ => .next (cksumIllFormed s)

/-- The token is complete: its value, or `Malformed` unless it is the mark and one or more digits. -/
def endCksum (s : State) : State :=
  if s.work.ck.bad || decide (s.work.ck.pos < 2) then raise .malformed (setCk {} s)
  else (setCk {} s).setWork { s.work with ck := {}, parsed := s.work.ck.value }

/-- `CKSUM`: `parsed = parse_cksum(tokens[N-1])`, or `Malformed` (R145). -/
def execCksum (digits : Token) (s : State) : Result :=
  andThen (forBytes runCksumChar (Config.markByte :: digits) (beginCksum s)) fun t =>
    .next (endCksum t)

end Sys2Proof.Machine
end

