-- ==== Sys2Proof/Machine/Crc.lean ====
section
/-! DEFINITION. CRC-16/XMODEM (40_crc.md). -/

namespace Sys2Proof.Machine

/-- One shift of the CRC register (R100). -/
def crcBit (c : Crc) (b : Bool) : Crc :=
  if xor (c.getLsbD 15) b then (c <<< 1) ^^^ Config.crcPoly else c <<< 1

/-- Eight shifts, bit 7 of the byte first (R101). -/
def crcByte (c : Crc) (b : Byte) : Crc :=
  [7, 6, 5, 4, 3, 2, 1, 0].foldl (fun c i => crcBit c (b.getLsbD i)) c

/-- CRC-16/XMODEM of a byte string, in index order (R102). -/
def crc16 (s : Token) : Crc := s.foldl crcByte Config.crcInit ^^^ Config.crcXorOut

end Sys2Proof.Machine
end

