-- ==== Sys2Proof/Machine/Literal.lean ====
section
/-! DEFINITION. Numeric literals, byte by byte (43_field_decoder.md R176, R178): the ten decimal digits,
`PLUS`, `MINUS` and `POINT`. The magnitude is a natural number; nothing wraps (R182). -/

namespace Sys2Proof.Machine

def setLit (l : LitAcc) (s : State) : State := s.setWork { s.work with lit := l }

/-- `k = 0; neg = false; m = 0; nint = 0; nfrac = 0; point = false`, of an integer or a decimal literal. -/
def beginLiteral (dec : Bool) (s : State) : State := setLit { dec := dec } s

/-- A byte that has no place where it stands: the literal is ill-formed (R82). -/
def litIllFormed (s : State) : State :=
  setLit { s.work.lit with pos := s.work.lit.pos + 1, bad := true } s

/-- `m = m * 10 + d`, counted as a fraction digit after the point and as an integer digit before it
(R178); an integer literal has no point (R176). -/
def litDigit (d : Nat) (s : State) : State :=
  if s.work.lit.point then
    setLit { s.work.lit with
      pos := s.work.lit.pos + 1, m := s.work.lit.m * 10 + d, nfrac := s.work.lit.nfrac + 1 } s
  else
    setLit { s.work.lit with
      pos := s.work.lit.pos + 1, m := s.work.lit.m * 10 + d, nint := s.work.lit.nint + 1 } s

/-- An optional sign, only as byte 0 of the token. -/
def litSign (neg : Bool) (s : State) : State :=
  if s.work.lit.pos = 0 then setLit { s.work.lit with pos := s.work.lit.pos + 1, neg := neg } s
  else litIllFormed s

/-! The decimal digits (R67): one definition a row, the value the row gives. -/

def execDec0 (s : State) : Result := .next (litDigit 0 s)

def execDec1 (s : State) : Result := .next (litDigit 1 s)

def execDec2 (s : State) : Result := .next (litDigit 2 s)

def execDec3 (s : State) : Result := .next (litDigit 3 s)

def execDec4 (s : State) : Result := .next (litDigit 4 s)

def execDec5 (s : State) : Result := .next (litDigit 5 s)

def execDec6 (s : State) : Result := .next (litDigit 6 s)

def execDec7 (s : State) : Result := .next (litDigit 7 s)

def execDec8 (s : State) : Result := .next (litDigit 8 s)

def execDec9 (s : State) : Result := .next (litDigit 9 s)

/-- `PLUS`. -/
def execPlus (s : State) : Result := .next (litSign false s)

/-- `MINUS`. -/
def execMinus (s : State) : Result := .next (litSign true s)

/-- `POINT`: at most one, and only in a decimal literal (R178). -/
def execPoint (s : State) : Result :=
  if s.work.lit.dec && !s.work.lit.point then
    .next (setLit { s.work.lit with pos := s.work.lit.pos + 1, point := true } s)
  else .next (litIllFormed s)

/-- One byte of a value token (R82: a byte outside the set makes the literal ill-formed). -/
def runValueChar (b : Byte) (s : State) : Result :=
  match decodeValueChar b with
  | .ok .dec0 => execDec0 s
  | .ok .dec1 => execDec1 s
  | .ok .dec2 => execDec2 s
  | .ok .dec3 => execDec3 s
  | .ok .dec4 => execDec4 s
  | .ok .dec5 => execDec5 s
  | .ok .dec6 => execDec6 s
  | .ok .dec7 => execDec7 s
  | .ok .dec8 => execDec8 s
  | .ok .dec9 => execDec9 s
  | .ok .plus => execPlus s
  | .ok .minus => execMinus s
  | .ok .point => execPoint s
  | _ => .next (litIllFormed s)

/-- The bytes of a value token, as an integer or a decimal literal; its accumulators are left in
`work.lit`. -/
def runLiteral (dec : Bool) (value : Token) (s : State) : Result :=
  forBytes runValueChar value (beginLiteral dec s)

/-- The literal is converted: its accumulators are gone (R16). -/
def endLiteral (s : State) : State := setLit {} s

end Sys2Proof.Machine
end

