-- ==== Sys2Proof/Machine/Field.lean ====
section
/-! DEFINITION. The field level (43_field_decoder.md R172 to R181): the unit of a pair selects the
conversion of its value. -/

namespace Sys2Proof.Machine

/-- The channels that carry a decimal result (R69, R80). -/
inductive DecChannel where
  | temperature
  | humidity
  | co2
deriving DecidableEq, Repr

/-- `update[channel] = r` (R180: it replaces an earlier value). -/
def Update.setDec (u : Update) (c : DecChannel) (r : DecimalResult) : Update :=
  match c with
  | .temperature => { u with temperature := some r }
  | .humidity => { u with humidity := some r }
  | .co2 => { u with co2 := some r }

def Update.setPressure (u : Update) (r : Int) : Update := { u with pressure := some r }

def setUpdate (u : Update) (s : State) : State := s.setWork { s.work with update := u }

/-- `update[pressure] = r`, or `Malformed` where the literal has no value (R174). -/
def attachInt (s : State) : State :=
  match s.work.lit.intValue with
  | some r => setUpdate (s.work.update.setPressure r) (endLiteral s)
  | none => raise .malformed (endLiteral s)

/-- `update[channel] = r`, or `Malformed` where the literal has no value (R175, R177, R179). -/
def attachDec (c : DecChannel) (s : State) : State :=
  match s.work.lit.decValue with
  | some r => setUpdate (s.work.update.setDec c r) (endLiteral s)
  | none => raise .malformed (endLiteral s)

/-- The value token as a decimal literal, attached to a channel. -/
def convertDec (c : DecChannel) (value : Token) (s : State) : Result :=
  andThen (runLiteral true value s) fun t => .next (attachDec c t)

/-- `UNIT_PA` (R174). -/
def execUnitPa (value : Token) (s : State) : Result :=
  andThen (runLiteral false value s) fun t => .next (attachInt t)

/-- `UNIT_C` (R175). -/
def execUnitC (value : Token) (s : State) : Result := convertDec .temperature value s

/-- `UNIT_RH` (R177). -/
def execUnitRh (value : Token) (s : State) : Result := convertDec .humidity value s

/-- `UNIT_PPM` (R179). -/
def execUnitPpm (value : Token) (s : State) : Result := convertDec .co2 value s

/-- `UNIT_OTHER`: no effect; the value token is not examined (R173). -/
def execUnitOther (_value _unit : Token) (s : State) : Result := .next s

/-- One pair: the operation its unit token selects (R172). -/
def runPair (value unit : Token) (s : State) : Result :=
  match decodePair value unit with
  | .unitPa v => execUnitPa v s
  | .unitC v => execUnitC v s
  | .unitRh v => execUnitRh v s
  | .unitPpm v => execUnitPpm v s
  | _ => execUnitOther value unit s

/-- The pairs in frame order, up to the first that rejects the frame (R180, R181). -/
def runPairs : List (Token × Token) → State → Result
  | [], s => .next s
  | (value, unit) :: rest, s => andThen (runPair value unit s) (unlessDecided (runPairs rest))

end Sys2Proof.Machine
end

