-- ==== Sys2Proof/Machine/Split.lean ====
section
/-! DEFINITION. Cutting a completed line into tokens: `DELIM` (42_frame_validator.md R142). -/

namespace Sys2Proof.Machine

/-- Nothing is split yet. -/
def beginSplit (s : State) : State := s.setWork { s.work with tokens := [], cur := [] }

/-- `append cur to tokens; cur = ""`. -/
def endToken (s : State) : State :=
  s.setWork { s.work with tokens := s.work.tokens ++ [s.work.cur], cur := [] }

/-- `cur = cur ++ [b]`: an ordinary byte of a token, which no row of the table names (R82). -/
def pushTokenByte (b : Byte) (s : State) : State :=
  s.setWork { s.work with cur := s.work.cur ++ [b] }

/-- `DELIM`: ends the token, which may be empty (R142). -/
def execDelim (s : State) : Result := .next (endToken s)

/-- One byte of a completed line (R64). -/
def runLineChar (b : Byte) (s : State) : Result :=
  match decodeLineChar b with
  | .ok .delim => execDelim s
  | _ => .next (pushTokenByte b s)

/-- `split` of the line buffer: the tokens are left in `work.tokens` (R142). -/
def runSplit (s : State) : Result :=
  andThen (forBytes runLineChar s.line (beginSplit s)) fun t => .next (endToken t)

end Sys2Proof.Machine
end

