-- ==== Sys2Proof/Machine/Frame.lean ====
section
/-! DEFINITION. The frame level (42_frame_validator.md, 43_field_decoder.md R170): what the block does
with a completed line, in the order of 60_exceptions.md R205. -/

namespace Sys2Proof.Machine

/-- `FRAME_OVERLONG`: the line did not fit; `Malformed` without decoding (R122, D3). -/
def execFrameOverlong (s : State) : Result := .next (raise .malformed s)

/-- `FRAME_EMPTY`: no event (R122, R141). -/
def execFrameEmpty (s : State) : Result := .next s

/-- `FRAME_SHORT`: fewer than six tokens (R143). -/
def execFrameShort (s : State) : Result := .next (raise .malformed s)

/-- `CRC_CHECK`: the CRC of the covered span against the value of the checksum token, as numbers
(R147, R148). -/
def execCrcCheck (s : State) : Result :=
  if (crc16 (coveredSpan s.params s.line)).toNat = s.work.parsed then .next s
  else .next (raise .checksumMismatch s)

/-- `ID_CHECK`: each expectation that is set against its token (R150). An illegal expectation has no
specified behaviour and is refused (U6). -/
def execIdCheck (product serial : Token) (s : State) : Result :=
  if s.cfgLegal then
    if differs s.cfgProd.expected product then .next (raise .identityMismatch s)
    else if differs s.cfgSer.expected serial then .next (raise .identityMismatch s)
    else .next s
  else .refused .illegalIdentityLength

/-- `decode_fields` begins: `update = {}`, and the line has no result yet (R170). -/
def beginFields (s : State) : State := s.setWork { s.work with update := {}, verdict := none }

/-- `return Accept(update)` (R170). -/
def acceptUpdate (s : State) : Result :=
  .next (s.setWork { s.work with verdict := some (.accept s.work.update) })

/-- `FRAME_D`: the pairs are decoded, and the frame is accepted unless one of them rejects it (R151,
R170). -/
def execFrameD (s : State) : Result :=
  andThen (runPairs (pairsOf s.params s.work.tokens) (beginFields s)) (unlessDecided acceptUpdate)

/-- `FRAME_OTHER`: reserved line types (R151). -/
def execFrameOther (_lineType : Token) (s : State) : Result :=
  .next (raise .unsupportedFrameType s)

/-! ## Selection (R82, R205) -/

/-- Step 4: `CKSUM` where the last token begins with the mark, else `Malformed` (R145). -/
def runCksum (s : State) : Result :=
  match decodeLastToken (lastToken s.work.tokens) with
  | .ok (.cksum digits) => execCksum digits s
  | _ => .next (raise .malformed s)

/-- Step 6, on tokens 1 and 2 (R144). -/
def runIdCheck (s : State) : Result :=
  execIdCheck (tokenAt s.work.tokens 1) (tokenAt s.work.tokens 2) s

/-- Step 7: token 0 selects the operation (R151). -/
def runFrameType (s : State) : Result :=
  match decodeToken0 (tokenAt s.work.tokens 0) with
  | .frameD => execFrameD s
  | _ => execFrameOther (tokenAt s.work.tokens 0) s

/-- Steps 3 to 9, each unless an earlier one has rejected the line. -/
def runChecks (s : State) : Result :=
  andThen (andThen (andThen (runCksum s) (unlessDecided execCrcCheck)) (unlessDecided runIdCheck))
    (unlessDecided runFrameType)

/-- Steps 2 to 9 on the split line (R143). -/
def runTokens (s : State) : Result :=
  if s.work.tokens.length < Config.minTokens then execFrameShort s else runChecks s

/-- What the terminator does with the line before it clears it (R122): `OVF` is tested first, then
the length, then the line is decoded. No intermediate value of an earlier line is there (R16). -/
def evaluateLine (s : State) : Result :=
  if s.ovf then execFrameOverlong (s.setWork {})
  else if s.len = 0#8 then execFrameEmpty (s.setWork {})
  else andThen (runSplit (s.setWork {})) runTokens

end Sys2Proof.Machine
end

