-- ==== Sys2Proof/Machine/LineParser.lean ====
section
/-! DEFINITION. The byte level (41_line_parser.md): `DATA`, `CR`, `LF`. -/

namespace Sys2Proof.Machine

/-- `DATA` (R121): the byte is stored at `LEN`, or discarded with `OVF` set where the buffer is full. -/
def execData (b : Byte) (s : State) : Result :=
  if s.hasRoom then andThen (storeByte s.len.toNat b s) fun t => .next (incLen t)
  else .next (setOvf s)

/-- `TERMINATE` (R122). -/
def terminate (s : State) : Result := andThen (evaluateLine s) fun t => .next (finishLine t)

/-- `LF` (R122, R123). -/
def execLf (s : State) : Result := terminate s

/-- `CR` (R122, R123). -/
def execCr (s : State) : Result := terminate s

end Sys2Proof.Machine
end

