-- ==== Sys2Proof/Machine/Dispatch.lean ====
section
/-! DEFINITION. One arm per row of spec/opcode_table.json. -/

namespace Sys2Proof.Machine

def exec (i : Instr) (s : State) : Host.Outcome State Fault Refusal :=
  match i with
  | .lf => Sys2Proof.Machine.execLf s
  | .cr => Sys2Proof.Machine.execCr s
  | .data b => Sys2Proof.Machine.execData b s
  | .delim => Sys2Proof.Machine.execDelim s
  | .mark => Sys2Proof.Machine.execMark s
  | .hex0 => Sys2Proof.Machine.execHex0 s
  | .hex1 => Sys2Proof.Machine.execHex1 s
  | .hex2 => Sys2Proof.Machine.execHex2 s
  | .hex3 => Sys2Proof.Machine.execHex3 s
  | .hex4 => Sys2Proof.Machine.execHex4 s
  | .hex5 => Sys2Proof.Machine.execHex5 s
  | .hex6 => Sys2Proof.Machine.execHex6 s
  | .hex7 => Sys2Proof.Machine.execHex7 s
  | .hex8 => Sys2Proof.Machine.execHex8 s
  | .hex9 => Sys2Proof.Machine.execHex9 s
  | .hexA => Sys2Proof.Machine.execHexA s
  | .hexB => Sys2Proof.Machine.execHexB s
  | .hexC => Sys2Proof.Machine.execHexC s
  | .hexD => Sys2Proof.Machine.execHexD s
  | .hexE => Sys2Proof.Machine.execHexE s
  | .hexF => Sys2Proof.Machine.execHexF s
  | .hexALower => Sys2Proof.Machine.execHexALower s
  | .hexBLower => Sys2Proof.Machine.execHexBLower s
  | .hexCLower => Sys2Proof.Machine.execHexCLower s
  | .hexDLower => Sys2Proof.Machine.execHexDLower s
  | .hexELower => Sys2Proof.Machine.execHexELower s
  | .hexFLower => Sys2Proof.Machine.execHexFLower s
  | .dec0 => Sys2Proof.Machine.execDec0 s
  | .dec1 => Sys2Proof.Machine.execDec1 s
  | .dec2 => Sys2Proof.Machine.execDec2 s
  | .dec3 => Sys2Proof.Machine.execDec3 s
  | .dec4 => Sys2Proof.Machine.execDec4 s
  | .dec5 => Sys2Proof.Machine.execDec5 s
  | .dec6 => Sys2Proof.Machine.execDec6 s
  | .dec7 => Sys2Proof.Machine.execDec7 s
  | .dec8 => Sys2Proof.Machine.execDec8 s
  | .dec9 => Sys2Proof.Machine.execDec9 s
  | .plus => Sys2Proof.Machine.execPlus s
  | .minus => Sys2Proof.Machine.execMinus s
  | .point => Sys2Proof.Machine.execPoint s
  | .frameOverlong => Sys2Proof.Machine.execFrameOverlong s
  | .frameEmpty => Sys2Proof.Machine.execFrameEmpty s
  | .frameShort => Sys2Proof.Machine.execFrameShort s
  | .cksum digits => Sys2Proof.Machine.execCksum digits s
  | .crcCheck => Sys2Proof.Machine.execCrcCheck s
  | .idCheck product serial => Sys2Proof.Machine.execIdCheck product serial s
  | .frameD => Sys2Proof.Machine.execFrameD s
  | .frameOther lineType => Sys2Proof.Machine.execFrameOther lineType s
  | .unitPa value => Sys2Proof.Machine.execUnitPa value s
  | .unitC value => Sys2Proof.Machine.execUnitC value s
  | .unitRh value => Sys2Proof.Machine.execUnitRh value s
  | .unitPpm value => Sys2Proof.Machine.execUnitPpm value s
  | .unitOther value unit => Sys2Proof.Machine.execUnitOther value unit s

end Sys2Proof.Machine
end

