-- ==== Sys2Proof/Machine/Input.lean ====
section
/-! DEFINITION. The input side: what a rising edge of `clk` brings (20_memory.md R40, R41,
70_reset_and_hazards.md R230). -/

namespace Sys2Proof.Machine

/-- What one edge is to the block. -/
inductive EdgeInput where
  /-- `rst = 1`. -/
  | reset (ports : CfgPorts)
  /-- `rst = 0` and no byte is accepted. -/
  | idle
  /-- `rst = 0`, `in_valid = 1` and `in_ready = 1`: the byte is accepted. -/
  | byte (b : Byte)
deriving DecidableEq, Repr

/-- The port `in_ready`, driven by the block: 0 while `rst = 1` (R27, R230, R41), else 1 where the block
can take a byte. -/
def PortSample.inReady (p : PortSample) : Bool := !p.rst && p.canTake

/-- Reset overrides everything (R230); a byte is accepted under the condition of R40. -/
def PortSample.read (p : PortSample) : EdgeInput :=
  if p.rst then .reset p.cfg
  else if p.inValid && p.inReady then .byte p.inData
  else .idle

/-- All configuration ports at 0. -/
def CfgPorts.zero : CfgPorts :=
  { prodEn := false, prodLen := 0#6, prod := 0#256, serEn := false, serLen := 0#6, ser := 0#256 }

/-- The sample in which the host presents `b` and the block takes it. -/
def PortSample.ofByte (b : Byte) : PortSample :=
  { rst := false, cfg := CfgPorts.zero, inValid := true, canTake := true, inData := b }

/-- The sample of a reset edge. -/
def PortSample.ofReset (c : CfgPorts) : PortSample :=
  { rst := true, cfg := c, inValid := false, canTake := false, inData := 0#8 }

def State.setRx (s : State) (r : List PortSample) : State := { s with rx := r }

/-- `in_ready` as driven at this edge. -/
def State.setReady (s : State) (b : Bool) : State := { s with inReady := b }

/-- The next edge, and the state without its sample and with `in_ready` as driven at it. With no sample
left the host presents nothing, and `in_ready` is free (log 3). -/
def nextEdge (s : State) : EdgeInput × State :=
  match s.rx with
  | [] => (.idle, s.setReady (Config.freeInReady s.freeIx))
  | p :: r => (p.read, (s.setRx r).setReady p.inReady)

/-- `CFG_*[i] <- cfg_*[8i+7 : 8i]` for 0 to 31 (R230). -/
def loadBytes (port : BitVec 256) : Vector Byte 32 :=
  ⟨((List.range 32).map fun i => port.extractLsb' (8 * i) 8).toArray, by simp⟩

/-- One group as the ports give it. -/
def loadId (en : Bool) (len : BitVec 6) (port : BitVec 256) : IdRegs :=
  { en := en, len := len, bytes := loadBytes port }

/-- Reset (R230, R27): `LEN`, `OVF` and `OUT_VALID` are cleared, the configuration is loaded, a partial
line is discarded without an event, and the output sequence of a new session begins (R231, log 9).
An illegal configuration is refused (R232, U6). -/
def resetBlock (c : CfgPorts) (s : State) : Result :=
  if (loadId c.prodEn c.prodLen c.prod).legal && (loadId c.serEn c.serLen c.ser).legal then
    .next { strobeEnd s with
      len := 0#8
      ovf := false
      cfgProd := loadId c.prodEn c.prodLen c.prod
      cfgSer := loadId c.serEn c.serLen c.ser
      events := []
      work := {} }
  else .refused .illegalIdentityLength

/-- A cycle that accepts nothing changes nothing but that the strobe ends (R40). -/
def idleCycle (s : State) : Result := .next (strobeEnd s)

end Sys2Proof.Machine
end

