-- ==== Sys2Proof/Machine/Wire.lean ====
section
/-! DEFINITION. How a sender builds a frame (30_encoding.md R74), and the shortest line that makes a
terminator run an operation of a lower level (used by `State.withFetchWord`, log 13). -/

namespace Sys2Proof.Machine

/-- One hexadecimal digit as the sender writes it: `0`-`9` or uppercase `A`-`F`. -/
def hexDigitByte (d : BitVec 4) : Byte :=
  if d.toNat < 10 then BitVec.ofNat 8 (0x30 + d.toNat) else BitVec.ofNat 8 (0x41 + (d.toNat - 10))

/-- `HEX4(c)`: bits 15:12, 11:8, 7:4, 3:0 in that order. -/
def hex4 (c : Crc) : Token :=
  [hexDigitByte (c.extractLsb' 12 4), hexDigitByte (c.extractLsb' 8 4),
   hexDigitByte (c.extractLsb' 4 4), hexDigitByte (c.extractLsb' 0 4)]

/-- The fields of a frame in the order of the wire format. -/
structure FrameFields where
  lineType : Token
  product : Token
  serial : Token
  message : Token
  pairs : List (Token × Token)
  reserved : Token
deriving DecidableEq, Repr

/-- `value "," unit ","` for each pair. -/
def pairBytes : List (Token × Token) → Token
  | [] => []
  | (value, unit) :: r =>
    value ++ Config.delimByte :: (unit ++ Config.delimByte :: pairBytes r)

/-- `body = type "," product "," serial_id "," message "," { value "," unit "," } reserved ","`. -/
def frameBody (f : FrameFields) : Token :=
  f.lineType ++ Config.delimByte :: (f.product ++ Config.delimByte :: (f.serial
    ++ Config.delimByte :: (f.message ++ Config.delimByte :: (pairBytes f.pairs
    ++ (f.reserved ++ [Config.delimByte])))))

/-- `frame = body ++ "*" ++ HEX4( crc16(body) )`. -/
def buildFrame (f : FrameFields) : Token :=
  frameBody f ++ Config.markByte :: hex4 (crc16 (frameBody f))

/-- A frame with the given pairs that passes the identity filter of `s`. -/
def passingFrame (s : State) (lineType : Token) (pairs : List (Token × Token)) : Token :=
  buildFrame
    { lineType := lineType
      product := s.cfgProd.expected.getD []
      serial := s.cfgSer.expected.getD []
      message := []
      pairs := pairs
      reserved := [] }

/-- Five empty tokens and a last token: the shortest line whose last token is examined. -/
def cksumLine (t : Token) : Token := List.replicate 5 Config.delimByte ++ t

/-- The shortest line that makes its terminator run the operation; none for the byte level and for
`FRAME_OVERLONG`, which no stored line selects. -/
def lineFor (i : Instr) (s : State) : Token :=
  match i with
  | .lf | .cr | .data _ | .frameOverlong | .frameEmpty => []
  | .delim => [Config.delimByte]
  | .frameShort => [Config.markByte]
  | .mark => cksumLine (encode .mark)
  | .hex0 | .hex1 | .hex2 | .hex3 | .hex4 | .hex5 | .hex6 | .hex7 | .hex8 | .hex9
  | .hexA | .hexB | .hexC | .hexD | .hexE | .hexF
  | .hexALower | .hexBLower | .hexCLower | .hexDLower | .hexELower | .hexFLower =>
    cksumLine (Config.markByte :: encode i)
  | .dec0 | .dec1 | .dec2 | .dec3 | .dec4 | .dec5 | .dec6 | .dec7 | .dec8 | .dec9
  | .plus | .minus | .point => passingFrame s Config.typeD [(encode i, Config.labelC)]
  | .cksum digits => cksumLine (Config.markByte :: digits)
  | .crcCheck => cksumLine [Config.markByte, 0x30#8]
  | .idCheck product serial =>
    buildFrame
      { lineType := Config.typeD, product := product, serial := serial, message := [],
        pairs := [], reserved := [] }
  | .frameD => passingFrame s Config.typeD []
  | .frameOther lineType => passingFrame s lineType []
  | .unitPa value => passingFrame s Config.typeD [(value, Config.labelPa)]
  | .unitC value => passingFrame s Config.typeD [(value, Config.labelC)]
  | .unitRh value => passingFrame s Config.typeD [(value, Config.labelRh)]
  | .unitPpm value => passingFrame s Config.typeD [(value, Config.labelPpm)]
  | .unitOther value unit => passingFrame s Config.typeD [(value, unit)]

/-- `line` in the buffer, complete but for its terminator. -/
def placeLine (line : Token) (s : State) : State :=
  { s with
    lb := (line.take Config.maxLine).zipIdx.foldl (fun m c => Memory.write m c.2 c.1) s.lb
    len := BitVec.ofNat 8 (min line.length Config.maxLine)
    ovf := false }

end Sys2Proof.Machine
end

