-- ==== Sys2Proof/Machine/Step.lean ====
section
/-! DEFINITION. The step: one rising edge of `clk`. An accepted byte is decoded and its operation runs,
whole, in this step (41_line_parser.md R120, 20_memory.md R46). -/

namespace Sys2Proof.Machine

def step (s : State) : Host.Outcome State Fault Refusal :=
  match nextEdge s with
  | (.reset c, t) => resetBlock c t
  | (.idle, t) => idleCycle t
  | (.byte b, t) => exec (decodeByte b) (strobeEnd t)

/-- The instruction of a table word placed where the next step runs it (log 13). A byte-level word is
the next byte of the input. A word of a lower level stands in a completed line, so the shortest such
line is placed in the line buffer and its terminator is the next byte of the input: the terminator's
step runs the operation. -/
def State.withFetchWord (s : State) (nbits w : Nat) : State :=
  match decodeTableWord nbits w with
  | some i =>
    match i.context with
    | .byte => s.setRx (PortSample.ofByte (BitVec.ofNat 8 w) :: s.rx)
    | _ => placeLine (lineFor i s) (s.setRx (PortSample.ofByte Config.carriageReturn :: s.rx))
  | none => s.setRx (PortSample.ofByte (BitVec.ofNat 8 w) :: s.rx)

end Sys2Proof.Machine
end

