-- ==== Sys2Proof/Machine/Forms.lean ====
section
/-! DEFINITION. The other forms the spec gives of what the block computes: the byte-wise and the table
form of the CRC (40_crc.md R101, R103), the CRC kept while bytes arrive (10_state.md R24), the 16-bit
evaluation of the checksum token (42_frame_validator.md R146), and the message as a sequence of
bits (R104, R106). None is state; the obligations state that they agree with the operations. -/

namespace Sys2Proof.Machine

/-! ## The CRC of a byte -/

/-- One of the eight shifts of the equivalent form of R101. -/
def crcShift (c : Crc) : Crc := if c.getLsbD 15 then (c <<< 1) ^^^ Config.crcPoly else c <<< 1

/-- The equivalent form of R101: the byte goes into the high byte first. -/
def crcByteHigh (c : Crc) (b : Byte) : Crc :=
  crcShift (crcShift (crcShift (crcShift (crcShift (crcShift (crcShift (crcShift
    (c ^^^ (b.zeroExtend 16 <<< 8)))))))))

/-- `T[i] = crc_byte(0x0000, i)` (R103). -/
def crcTable (i : Byte) : Crc := crcByte 0x0000#16 i

/-- The table form (R103). -/
def crcByteTable (c : Crc) (b : Byte) : Crc := (c <<< 8) ^^^ crcTable (c.extractLsb' 8 8 ^^^ b)

/-! ## The CRC while bytes arrive (R24) -/

/-- `CRCS` and the delay line `DLY[0..4]`. -/
structure StreamRegs where
  crcs : Crc
  dly : List Byte
deriving DecidableEq, Repr

/-- `CRCS` after reset; `DLY` is unspecified (R27). -/
def StreamRegs.atReset (dly : List Byte) : StreamRegs := { crcs := 0x0000#16, dly := dly }

/-- A data byte: the oldest delayed byte goes into `CRCS` once five bytes are in the delay line. -/
def streamByte (len : Nat) (b : Byte) (r : StreamRegs) : StreamRegs :=
  { crcs := if 5 ≤ len then crcByte r.crcs (r.dly.headD 0#8) else r.crcs
    dly := r.dly.tail ++ [b] }

/-- The bytes of a line, `len` bytes being in already. -/
def streamBytes (len : Nat) : Token → StreamRegs → StreamRegs
  | [], r => r
  | b :: s, r => streamBytes (len + 1) s (streamByte len b r)

/-! ## The checksum token in 16 bits (R146) -/

/-- `ACC` and `HI`, both 0 at the mark. -/
structure AccHi where
  acc : BitVec 16 := 0#16
  hi : Bool := false
deriving DecidableEq, Repr

/-- `HI <- HI or (ACC[15:12] != 0)`, then `ACC <- (ACC[11:0] ++ d)`. -/
def accDigit (r : AccHi) (d : BitVec 4) : AccHi :=
  { hi := r.hi || !(r.acc.extractLsb' 12 4 == 0#4), acc := r.acc.extractLsb' 0 12 ++ d }

/-- The digits of a checksum token after its mark. -/
def accDigits (ds : List (BitVec 4)) : AccHi := ds.foldl accDigit {}

/-- Their value, most significant first (R70). -/
def digitsValue (ds : List (BitVec 4)) : Nat := ds.foldl (fun v d => v * 16 + d.toNat) 0

/-! ## The message as bits -/

/-- The bits of a byte string, bit 7 of each byte first (R104). -/
def messageBits (s : Token) : List Bool :=
  s.flatMap fun b => [7, 6, 5, 4, 3, 2, 1, 0].map fun i => b.getLsbD i

/-- The bits of the CRC register, bit 15 first (R104). -/
def crcBits (c : Crc) : List Bool :=
  [15, 14, 13, 12, 11, 10, 9, 8, 7, 6, 5, 4, 3, 2, 1, 0].map fun i => c.getLsbD i

/-- Bytewise xor of two byte strings of equal length (R105). -/
def xorBytes (s t : Token) : Token := List.zipWith (fun a b => a ^^^ b) s t

end Sys2Proof.Machine
end

