-- ==== Sys2Proof/Machine/Reference.lean ====
section
/-! DEFINITION. The pure functions of the spec as its pseudocode has them: `split`, `parse_cksum`,
`parse_int`, `parse_dec`, `decode_fields`, `decode` (R142, R145, R176, R178, R170, R140), and the output
of a session as a function of its input (R124). The step does not call them: it runs the operations
of the opcode table; the obligations state that the two agree. -/

namespace Sys2Proof.Machine

/-- The result of `decode` (R140). -/
inductive DecodeResult where
  | empty
  | reject (kind : RejectKind)
  | accept (update : Update)
deriving DecidableEq, Repr

/-- The event of a result; `Empty` is no event (R202). -/
def DecodeResult.event : DecodeResult → Option Event
  | .empty => none
  | .reject k => some (.reject k)
  | .accept u => some (.accept u)

/-- `cfg`: the two expected values, each absent or a byte string (R140). -/
structure Identity where
  product : Option Token
  serial : Option Token
deriving DecidableEq, Repr

/-- The abstract value of the configuration registers (R17, R18). -/
def State.identity (s : State) : Identity :=
  { product := s.cfgProd.expected, serial := s.cfgSer.expected }

/-- The abstract value of the configuration ports. -/
def CfgPorts.identity (c : CfgPorts) : Identity :=
  { product :=
      if c.prodEn then some ((List.range c.prodLen.toNat).map fun i => c.prod.extractLsb' (8 * i) 8)
      else none
    serial :=
      if c.serEn then some ((List.range c.serLen.toNat).map fun i => c.ser.extractLsb' (8 * i) 8)
      else none }

/-- Each `*_len` is 0 to 32 when its `*_en` is 1 (R232). -/
def CfgPorts.legal (c : CfgPorts) : Bool :=
  (!c.prodEn || decide (c.prodLen.toNat ≤ Config.idMax))
    && (!c.serEn || decide (c.serLen.toNat ≤ Config.idMax))

/-! ## Tokens -/

def splitStep (acc : List Token × Token) (b : Byte) : List Token × Token :=
  if b = Config.delimByte then (acc.1 ++ [acc.2], []) else (acc.1, acc.2 ++ [b])

/-- R142. -/
def split (s : Token) : List Token :=
  (s.foldl splitStep ([], [])).1 ++ [(s.foldl splitStep ([], [])).2]

/-- `v = v * 16 + d` for each digit; none at the first byte that is no digit (R145). -/
def hexDigits (v : Nat) : Token → Option Nat
  | [] => some v
  | b :: r =>
    match hexval b with
    | none => none
    | some d => hexDigits (v * 16 + d) r

/-- R145. -/
def parseCksum (t : Token) : Option Nat :=
  match t with
  | [] => none
  | b :: r =>
    if r = [] then none
    else if b = Config.markByte then hexDigits 0 r
    else none

/-! ## Literals -/

/-- The optional sign and the bytes after it. -/
def takeSign (t : Token) : Bool × Token :=
  match t with
  | [] => (false, [])
  | b :: r =>
    if b = Config.plusByte then (false, r)
    else if b = Config.minusByte then (true, r)
    else (false, b :: r)

def applySign (neg : Bool) (m : Nat) : Int := if neg then -(m : Int) else (m : Int)

/-- `m = m * 10 + d` for each digit; none at the first byte that is no digit (R176). -/
def decDigits (m : Nat) : Token → Option Nat
  | [] => some m
  | b :: r =>
    match decval b with
    | none => none
    | some d => decDigits (m * 10 + d) r

/-- R176. -/
def parseInt (t : Token) : Option Int :=
  match takeSign t with
  | (_, []) => none
  | (neg, b :: r) =>
    match decDigits 0 (b :: r) with
    | none => none
    | some m => inRange (applySign neg m)

/-- The loop of R178 over the bytes after the sign: `m`, `nint`, `nfrac`, `point`. -/
def decLoop (m nint nfrac : Nat) (point : Bool) : Token → Option (Nat × Nat × Nat × Bool)
  | [] => some (m, nint, nfrac, point)
  | b :: r =>
    match decval b with
    | some d =>
      if point then decLoop (m * 10 + d) nint (nfrac + 1) point r
      else decLoop (m * 10 + d) (nint + 1) nfrac point r
    | none => if b = Config.pointByte ∧ point = false then decLoop m nint nfrac true r else none

/-- R178. -/
def parseDec (t : Token) : Option DecimalResult :=
  match decLoop 0 0 0 false (takeSign t).2 with
  | none => none
  | some (m, nint, nfrac, point) =>
    if nint = 0 then none
    else if point = true ∧ nfrac = 0 then none
    else (inRange (applySign (takeSign t).1 m)).map fun v => { sig := v, scale := nfrac }

/-! ## The frame -/

/-- One pair of `decode_fields` (R170): the update after it, or none where its literal is bad. -/
def fieldUpdate (value unit : Token) (u : Update) : Option Update :=
  if unit = Config.labelPa then (parseInt value).map u.setPressure
  else if unit = Config.labelC then (parseDec value).map (u.setDec .temperature)
  else if unit = Config.labelRh then (parseDec value).map (u.setDec .humidity)
  else if unit = Config.labelPpm then (parseDec value).map (u.setDec .co2)
  else some u

/-- The loop of R170 over the pairs in frame order. -/
def decodePairs (u : Update) : List (Token × Token) → DecodeResult
  | [] => .accept u
  | (value, unit) :: r =>
    match fieldUpdate value unit u with
    | none => .reject .malformed
    | some u' => decodePairs u' r

/-- R170. -/
def decodeFields (p : Params) (tokens : List Token) : DecodeResult :=
  decodePairs {} (pairsOf p tokens)

/-- R140: steps 1 to 9 in the document's order. -/
def decodeLine (p : Params) (cfg : Identity) (line : Token) : DecodeResult :=
  if line = [] then .empty
  else
    let tokens := split line
    if tokens.length < Config.minTokens then .reject .malformed
    else
      match parseCksum (lastToken tokens) with
      | none => .reject .malformed
      | some parsed =>
        if (crc16 (coveredSpan p line)).toNat ≠ parsed then .reject .checksumMismatch
        else if differs cfg.product (tokenAt tokens 1) then .reject .identityMismatch
        else if differs cfg.serial (tokenAt tokens 2) then .reject .identityMismatch
        else if tokenAt tokens 0 ≠ Config.typeD then .reject .unsupportedFrameType
        else decodeFields p tokens

/-! ## A session as a function of its input (R124) -/

/-- The bytes accepted over a list of edges (R40). -/
def acceptedByte (i : PortSample) : Option Byte :=
  if i.rst = false ∧ i.inValid = true ∧ i.inReady = true then some i.inData else none

def accepted (edges : List PortSample) : Token := edges.filterMap acceptedByte

def cutStep (acc : List Token × Token) (b : Byte) : List Token × Token :=
  if isTerminator b then (acc.1 ++ [acc.2], []) else (acc.1, acc.2 ++ [b])

/-- The complete lines of the input and its last, unterminated piece. -/
def cutLines (input : Token) : List Token × Token := input.foldl cutStep ([], [])

/-- What one complete line contributes to the output. -/
def lineOutput (p : Params) (cfg : Identity) (line : Token) : List Event :=
  if line.length > Config.maxLine then [.reject .malformed]
  else (decodeLine p cfg line).event.toList

/-- The output sequence of a session. -/
def sessionOutput (p : Params) (cfg : Identity) (input : Token) : List Event :=
  (cutLines input).1.flatMap (lineOutput p cfg)

/-! ## The update of a well-formed frame (R154) -/

/-- The conversion of the last pair that has the label. -/
def lastValue {α : Type} (label : Token) (parse : Token → Option α) (pairs : List (Token × Token)) :
    Option α :=
  match (pairs.filter fun q => q.2 == label).getLast? with
  | none => none
  | some q => parse q.1

/-- The update R154 gives a frame with these pairs. -/
def expectedUpdate (pairs : List (Token × Token)) : Update :=
  { pressure := lastValue Config.labelPa parseInt pairs
    temperature := lastValue Config.labelC parseDec pairs
    humidity := lastValue Config.labelRh parseDec pairs
    co2 := lastValue Config.labelPpm parseDec pairs }

/-- Every value whose unit is recognized is a literal of its grammar, in range (R154). -/
def pairConverts (q : Token × Token) : Bool :=
  if q.2 = Config.labelPa then (parseInt q.1).isSome
  else if q.2 = Config.labelC ∨ q.2 = Config.labelRh ∨ q.2 = Config.labelPpm then
    (parseDec q.1).isSome
  else true

end Sys2Proof.Machine
end

