-- ==== Sys2Proof/Safety.lean ====
section
/-! DEFINITION. What claims call a good state and a good run. -/

namespace Sys2Proof.Machine

/-- What the output registers may hold: no reserved status code with an event (R78), and no present
bit with a rejection (R79). -/
def OutRegs.wf (o : OutRegs) : Bool :=
  !o.valid || (decide (o.status.toNat ≤ 4) && (o.status == 0#3 || o.present == 0#4))

/-- The invariants of 10_state.md section 3, with the canonical form of the line buffer, the idle
intermediate values (R16), a legal configuration (R17) and the output registers. -/
structure State.Inv (s : State) : Prop where
  lbCanonical : Memory.wf s.lb = true
  ovfFull : s.ovf = true → s.len = 255#8
  noTerminator : ∀ b ∈ s.line, isTerminator b = false
  workIdle : s.work = {}
  cfgLegal : s.cfgLegal = true
  outWf : s.out.wf = true

/-- The two states are the same but for elements of the line buffer at `LEN` and above, which hold "no
value that any rule reads" (R12, U8). -/
structure State.SameButStale (s t : State) : Prop where
  rest : { s with lb := [] } = { t with lb := [] }
  line : s.line = t.line
  leftCanonical : Memory.wf s.lb = true
  rightCanonical : Memory.wf t.lb = true

/-- Both outcomes are of one kind, and next states are related by `r`. -/
def Agree (r : State → State → Prop) : Result → Result → Prop
  | .next s, .next t => r s t
  | .fault a, .fault b => a = b
  | .refused a, .refused b => a = b
  | _, _ => False

/-- A result an event carries fits its ports (R80, R81). -/
def DecimalResult.fits (d : DecimalResult) : Bool :=
  decide (Config.intMin ≤ d.sig) && decide (d.sig ≤ Config.intMax) && decide (d.scale ≤ 255)

def Update.fits (u : Update) : Bool :=
  (u.pressure.all fun v => decide (Config.intMin ≤ v) && decide (v ≤ Config.intMax))
    && u.temperature.all (·.fits) && u.humidity.all (·.fits) && u.co2.all (·.fits)

/-- The terminator ends the line with this event: either terminator answers the same next state, the
event is the one thing appended to the output sequence, it is strobed with its status code, and the
block is at the beginning of a line (R122, R123, R125, R210). -/
def State.lineGives (s : State) (e : Event) : Prop :=
  ∃ t, exec .cr s = .next t ∧ exec .lf s = .next t ∧ t.events = s.events ++ [e]
    ∧ t.out.valid = true ∧ t.out.status = statusCode e
    ∧ t.out.present = presentMask (eventUpdate e) ∧ t.atLineStart = true ∧ t.work = {}

/-- The line in the buffer passes steps 1 to 4: it fits, it has six tokens, and its last token is a
checksum token of this value (R143, R145). -/
structure State.HasChecksum (s : State) (parsed : Nat) : Prop where
  fits : s.ovf = false
  tokens : Config.minTokens ≤ (split s.line).length
  value : parseCksum (lastToken (split s.line)) = some parsed

/-- The line passes steps 1 to 5 (R148). -/
def State.PassesCrc (s : State) : Prop :=
  s.HasChecksum (crc16 (coveredSpan s.params s.line)).toNat

/-- The line passes steps 1 to 6 (R150). -/
structure State.PassesIdentity (s : State) : Prop where
  crc : s.PassesCrc
  legal : s.cfgLegal = true
  product : differs s.cfgProd.expected (tokenAt (split s.line) 1) = false
  serial : differs s.cfgSer.expected (tokenAt (split s.line) 2) = false

/-- The field level at work: a value token gives an update or, where it has no value, the rejection of
the frame; the literal's accumulators are idle again (R16, R174, R181). -/
def afterField (u : Option Update) (s : State) : State :=
  match u with
  | some u => s.setWork { s.work with lit := {}, update := u }
  | none => s.setWork { s.work with lit := {}, update := {}, verdict := some (.reject .malformed) }

end Sys2Proof.Machine
end

