-- ==== Sys2Proof/Certificates/Slice0/Obligations.lean ====
section
/-! DEFINITION. What the provers are asked: the rules of spec/ about the machine, in its own terms. -/

open Sys2Proof Sys2Proof.Machine

/-! ## Encoding -/

/-- Decode and encode agree on every well-formed operation that has a byte pattern, with every operand.
The concatenation of two tokens with their delimiter is the wire format's (R65); which context is
handed which bytes is the model's choice (log 14). -/
def Obligations.DecodeEncodeRoundTrip : Prop :=
  ∀ i : Instr, i.wf = true → i.context ≠ .condition → decode i.context (encode i) = .ok i

/-- Bytes that decode to an operation in a context are the bytes `encode` gives it there, and it belongs
to the context. R82 gives `ID_CHECK` no byte pattern and a unit row its unit token alone; that the
contexts `idTokens` and `pair` hold two tokens with their delimiter is the model's choice (log 14). -/
def Obligations.DecodedBytesAreTheOperations : Prop :=
  ∀ (c : Context) (t : Token) (i : Instr), decode c t = .ok i → i.context = c ∧ encode i = t

/-- R63: the whole byte tells the two terminators and `DATA` apart. -/
def Obligations.ByteClasses : Prop :=
  ∀ b : Byte, (decodeByte b = .lf ↔ b = 0x0A#8) ∧ (decodeByte b = .cr ↔ b = 0x0D#8)
    ∧ (b ≠ 0x0A#8 → b ≠ 0x0D#8 → decodeByte b = .data b)

/-- A few words written out from the spec's encodings (R62, R66 to R69). In the three words of the
context `pair` only the unit token is the row's own (R69, R82); that the decoder is handed the value
token, the delimiter and the unit token is the model's choice (log 14). -/
def Obligations.SpecWordsDecode : Prop :=
  decodeByte 0x0A#8 = .lf ∧ decodeByte 0x0D#8 = .cr ∧ decodeByte 0x41#8 = .data 0x41#8
    ∧ decode .lineChar [0x2C#8] = .ok .delim
    ∧ decode .cksumChar [0x2A#8] = .ok .mark
    ∧ decode .cksumChar [0x46#8] = .ok .hexF
    ∧ decode .cksumChar [0x66#8] = .ok .hexFLower
    ∧ decode .valueChar [0x39#8] = .ok .dec9
    ∧ decode .valueChar [0x2D#8] = .ok .minus
    ∧ decode .lastToken [0x2A#8, 0x43#8, 0x31#8] = .ok (.cksum [0x43#8, 0x31#8])
    ∧ decode .token0 [0x44#8] = .ok .frameD
    ∧ decode .token0 [0x49#8] = .ok (.frameOther [0x49#8])
    ∧ decode .pair [0x37#8, 0x2C#8, 0x50#8, 0x61#8] = .ok (.unitPa [0x37#8])
    ∧ decode .pair [0x37#8, 0x2C#8, 0x70#8, 0x70#8, 0x6D#8] = .ok (.unitPpm [0x37#8])
    ∧ decode .pair [0x37#8, 0x2C#8, 0x70#8, 0x61#8] = .ok (.unitOther [0x37#8] [0x70#8, 0x61#8])

/-! ## The CRC -/

/-- R101: the equivalent form. -/
def Obligations.CrcByteHighByteForm : Prop := ∀ (c : Crc) (b : Byte), crcByte c b = crcByteHigh c b

/-- R103: the table form. -/
def Obligations.CrcTableForm : Prop := ∀ (c : Crc) (b : Byte), crcByte c b = crcByteTable c b

/-- R105: zero prefix, linearity, continuation, residue. -/
def Obligations.CrcLaws : Prop :=
  (∀ (n : Nat) (s : Token), crc16 (List.replicate n 0x00#8 ++ s) = crc16 s)
    ∧ (∀ s t : Token, s.length = t.length → crc16 (xorBytes s t) = crc16 s ^^^ crc16 t)
    ∧ (∀ s t : Token, crc16 (s ++ t) = t.foldl crcByte (crc16 s))
    ∧ (∀ s : Token,
        crc16 (s ++ [(crc16 s).extractLsb' 8 8, (crc16 s).extractLsb' 0 8]) = 0x0000#16)

/-- R104: `crc16(s)` is the remainder of M(x) x^16 divided by x^16 + x^12 + x^5 + 1 over GF(2). -/
def Obligations.CrcIsPolynomialRemainder : Prop :=
  ∀ s : Token,
    ((((messageBits s).foldl (fun p b => p * Polynomial.X + Polynomial.C (if b then 1 else 0)) 0
        * Polynomial.X ^ 16 : Polynomial (ZMod 2)))
      %ₘ (Polynomial.X ^ 16 + Polynomial.X ^ 12 + Polynomial.X ^ 5 + 1))
      = (crcBits (crc16 s)).foldl (fun p b => p * Polynomial.X + Polynomial.C (if b then 1 else 0)) 0

/-- R106: two byte strings of one length that differ only inside a window of 16 consecutive bits have
different CRCs. -/
def Obligations.CrcDetectsShortBursts : Prop :=
  ∀ (s t : Token) (k : Nat), s.length = t.length → s ≠ t →
    (∀ j, (messageBits s)[j]? ≠ (messageBits t)[j]? → k ≤ j ∧ j < k + 16) → crc16 s ≠ crc16 t

/-- R106: two byte strings of one length that differ in an odd number of bits have different CRCs. -/
def Obligations.CrcDetectsOddErrors : Prop :=
  ∀ s t : Token, s.length = t.length →
    ((messageBits (xorBytes s t)).filter (fun b => b)).length % 2 = 1 → crc16 s ≠ crc16 t

/-- R24: the CRC kept while bytes arrive is five bytes behind, whatever the delay line held. -/
def Obligations.StreamingCrcInvariant : Prop :=
  ∀ s dly : Token, dly.length = 5 →
    (streamBytes 0 s (StreamRegs.atReset dly)).crcs = crc16 (s.take (s.length - 5))
      ∧ ∀ j, j < 5 → 5 ≤ s.length + j →
        (streamBytes 0 s (StreamRegs.atReset dly)).dly[j]? = s[s.length + j - 5]?

/-- R146: sixteen bits and one flag decide the comparison of the unbounded checksum value. -/
def Obligations.SixteenBitChecksumComparison : Prop :=
  ∀ (ds : List (BitVec 4)) (crc : Crc),
    digitsValue ds = crc.toNat ↔ (accDigits ds).hi = false ∧ (accDigits ds).acc = crc

/-! ## The step -/

/-- R120: an accepted byte runs the operation it decodes to, in this step, on the state without the
byte, with `in_ready` as driven at this edge and with the strobe of the edge before it ended. -/
def Obligations.StepRunsDecodedByte : Prop :=
  ∀ (s : State) (p : PortSample) (r : List PortSample),
    s.rx = p :: r → p.rst = false → p.inValid = true → p.inReady = true →
      step s = exec (decodeByte p.inData)
        { s with rx := r, inReady := true, out := driveIdle s.freeIx, freeIx := s.freeIx + 1 }

/-- R40: an edge that accepts nothing changes no register but that `OUT_VALID` returns to 0. The other
output registers are then unspecified (R22), so they take the free value; `in_ready` is as driven at
the edge; with no sample left the model takes the edge for idle, with `in_ready` free (log 3). -/
def Obligations.IdleEdgeOnlyEndsStrobe : Prop :=
  ∀ s : State,
    (∀ (p : PortSample) (r : List PortSample), s.rx = p :: r → p.rst = false →
      (p.inValid && p.inReady) = false →
        step s = .next { s with
          rx := r, inReady := p.inReady, out := driveIdle s.freeIx, freeIx := s.freeIx + 1 })
      ∧ (s.rx = [] →
        step s = .next { s with
          inReady := Config.freeInReady s.freeIx, out := driveIdle s.freeIx,
          freeIx := s.freeIx + 1 })
      ∧ (driveIdle s.freeIx).valid = false

/-- R230, R232, R27: a reset edge, whatever else the sample holds and whatever the state is: `in_ready` is
0, `LEN`, `OVF`, `OUT_VALID` are 0, the configuration is what the ports give, no event comes of the
partial line; an illegal length is refused. The model's choices in it: the output sequence begins
anew (log 9), and `LB`, unspecified after reset, is as before (log 7). -/
def Obligations.ResetEdge : Prop :=
  ∀ (s : State) (p : PortSample) (r : List PortSample), s.rx = p :: r → p.rst = true →
    (p.cfg.legal = true → ∃ t, step s = .next t ∧ p.inReady = false ∧ t.inReady = false
      ∧ t.len = 0#8 ∧ t.ovf = false ∧ t.out.valid = false ∧ t.identity = p.cfg.identity ∧ t.cfgProd.en = p.cfg.prodEn ∧ t.cfgProd.len = p.cfg.prodLen
      ∧ t.cfgSer.en = p.cfg.serEn ∧ t.cfgSer.len = p.cfg.serLen
      ∧ (∀ i (h : i < 32), t.cfgProd.bytes[i] = p.cfg.prod.extractLsb' (8 * i) 8
          ∧ t.cfgSer.bytes[i] = p.cfg.ser.extractLsb' (8 * i) 8)
      ∧ t.events = [] ∧ t.rx = r ∧ t.params = s.params ∧ t.work = {} ∧ ∀ a, t.load a = s.load a)
      ∧ (p.cfg.legal = false → step s = .refused .illegalIdentityLength)

/-- R240: the configuration ports have no effect while `rst` is 0. -/
def Obligations.ConfigPortsReadOnlyAtReset : Prop :=
  ∀ (s : State) (p : PortSample) (r : List PortSample) (c : CfgPorts), p.rst = false →
    step { s with rx := { p with cfg := c } :: r } = step { s with rx := p :: r }

/-- R120: with a legal configuration the step is total, but for a reset that loads an illegal one (U6). -/
def Obligations.StepIsTotal : Prop :=
  ∀ s : State, s.cfgLegal = true →
    (∀ p, s.rx.head? = some p → p.rst = true → p.cfg.legal = true) → ∃ t, step s = .next t

/-- R21: a step either strobes exactly one event, which it appends to the output sequence, or leaves
`OUT_VALID` at 0; then the output sequence is as before, or the edge was a reset, which begins a new
one (log 9). -/
def Obligations.StrobeExactlyWithEvent : Prop :=
  ∀ s t : State, step s = .next t →
    (t.out.valid = true ∧ ∃ e, t.events = s.events ++ [e] ∧ t.out.status = statusCode e)
      ∨ (t.out.valid = false ∧ (t.events = s.events
        ∨ (t.events = [] ∧ ∃ (p : PortSample) (r : List PortSample), s.rx = p :: r ∧ p.rst = true)))

/-! ## Invariants and whole-machine rules -/

/-- 10_state.md section 3 and R16: every step keeps the invariants. -/
def Obligations.StepKeepsInvariant : Prop := ∀ s t : State, s.Inv → step s = .next t → t.Inv

/-- The state after reset has them. -/
def Obligations.ResetHasInvariant : Prop := State.reset.Inv

/-- R12, U8: nothing a step does depends on the elements of the line buffer at `LEN` and above. -/
def Obligations.StaleBufferNeverRead : Prop :=
  ∀ s t : State, s.SameButStale t → Agree State.SameButStale (step s) (step t)

/-- R47: the event of a line depends only on the configuration and the bytes of that line. -/
def Obligations.EventDependsOnLineAlone : Prop :=
  ∀ s t s' t' : State, s.line = t.line → s.ovf = t.ovf → s.params = t.params →
    s.identity = t.identity → exec .cr s = .next s' → exec .lf t = .next t' →
      ∃ es : List Event, es.length ≤ 1 ∧ s'.events = s.events ++ es ∧ t'.events = t.events ++ es

/-- R126, R19: no operation changes the configuration; R12: only `DATA` writes the line buffer. Input
still to come, `in_ready` and the two parameters are left alone too. -/
def Obligations.NoOperationReconfigures : Prop :=
  ∀ (i : Instr) (s t : State), exec i s = .next t →
    t.cfgProd = s.cfgProd ∧ t.cfgSer = s.cfgSer ∧ t.params = s.params ∧ t.rx = s.rx
      ∧ t.inReady = s.inReady ∧ ((∀ b, i ≠ .data b) → ∀ a, t.load a = s.load a)

/-- R16, R48: no operation below the byte level touches anything but the intermediate values of the
evaluation, and each of them completes; `ID_CHECK` with a legal configuration. -/
def Obligations.LowerLevelsTouchOnlyWork : Prop :=
  ∀ (i : Instr) (s : State), i.context ≠ .byte →
    (s.cfgLegal = true ∨ ∀ product serial, i ≠ .idCheck product serial) →
    ∃ w : Work, exec i s = .next { s with work := w }

/-- The line buffer: a read after a write, and the canonical form. -/
def Obligations.LineBufferWriteRead : Prop :=
  ∀ (m : List Host.Cell) (a : Nat) (v : Byte), Memory.wf m = true → a < 255 →
    Memory.wf (Memory.write m a v) = true ∧ Memory.read (Memory.write m a v) a = v
      ∧ ∀ b, b ≠ a → Memory.read (Memory.write m a v) b = Memory.read m b

/-- R231: after a reset nothing of the session before it is left: two blocks with the same parameters
answer the same output sequence, length, overflow and line to the same edges. -/
def Obligations.SessionsAreIndependent : Prop :=
  ∀ (s t : State) (p : PortSample) (edges : List PortSample), s.params = t.params →
    Memory.wf s.lb = true → Memory.wf t.lb = true → s.rx = p :: edges → t.rx = p :: edges →
    p.rst = true → p.cfg.legal = true → (∀ q ∈ edges, q.rst = false) →
      ∃ s' t', Host.Core.run core (edges.length + 1) s = .next s'
        ∧ Host.Core.run core (edges.length + 1) t = .next t'
        ∧ s'.events = t'.events ∧ s'.len = t'.len ∧ s'.ovf = t'.ovf ∧ s'.line = t'.line

/-! ## The line parser -/

/-- R121: `DATA` below the capacity stores the byte at `LEN` and counts it, and changes nothing else; at
the capacity it sets `OVF` and the byte is discarded. -/
def Obligations.DataStoresOrOverflows : Prop :=
  ∀ (s : State) (b : Byte), isTerminator b = false → Memory.wf s.lb = true →
    (s.len.toNat < 255 → ∃ t, exec (.data b) s = .next t ∧ t = { s with lb := t.lb, len := t.len }
      ∧ t.len.toNat = s.len.toNat + 1 ∧ t.load s.len.toNat = b
      ∧ (∀ a, a ≠ s.len.toNat → t.load a = s.load a) ∧ t.line = s.line ++ [b])
      ∧ (s.len = 255#8 → exec (.data b) s = .next { s with ovf := true })

/-- R122, R140: what a terminator does with the line, for the two terminators alike. -/
def Obligations.TerminatorEmitsDecode : Prop :=
  ∀ (s : State) (i : Instr), i = .cr ∨ i = .lf →
    (s.ovf = true → exec i s = .next
        { emit (.reject .malformed) s with len := 0#8, ovf := false, work := {} })
      ∧ (s.ovf = false → s.len = 0#8 → exec i s = .next { s with work := {} })
      ∧ (s.ovf = false → s.len ≠ 0#8 → s.cfgLegal = true →
        ∃ e, (decodeLine s.params s.identity s.line).event = some e
          ∧ exec i s = .next { emit e s with len := 0#8, ovf := false, work := {} })

/-- R123: a second terminator directly after a first is silent, whichever they are. -/
def Obligations.SecondTerminatorIsSilent : Prop :=
  ∀ (s t u : State) (a b : PortSample) (r : List PortSample), s.rx = a :: b :: r →
    acceptedByte a = some 0x0D#8 ∨ acceptedByte a = some 0x0A#8 →
    acceptedByte b = some 0x0D#8 ∨ acceptedByte b = some 0x0A#8 →
    step s = .next t → step t = .next u →
      u.events = t.events ∧ u.out.valid = false ∧ u.len = 0#8 ∧ u.ovf = false

/-- R124: over any edges without a reset, from the beginning of a line, the output sequence grows by
what the complete lines of the accepted bytes give, in order, and the last piece is what is left. -/
def Obligations.SessionOutputOfInput : Prop :=
  ∀ (s : State) (edges rest : List PortSample), s.rx = edges ++ rest → (∀ p ∈ edges, p.rst = false) →
    s.atLineStart = true → s.cfgLegal = true → Memory.wf s.lb = true →
      ∃ t, Host.Core.run core edges.length s = .next t
        ∧ t.events = s.events ++ sessionOutput s.params s.identity (accepted edges)
        ∧ t.len.toNat = min (cutLines (accepted edges)).2.length 255
        ∧ t.line = (cutLines (accepted edges)).2.take 255
        ∧ (t.ovf = true ↔ (cutLines (accepted edges)).2.length > 255)
        ∧ t.rx = rest

/-- R78, R79, R80, R81: the ports carry the event a line gives, exactly: every sig and scale of an
accepted update is in range of its port. -/
def Obligations.PortsCarryTheEvent : Prop :=
  ∀ (s t : State) (i : Instr) (e : Event), i = .cr ∨ i = .lf → exec i s = .next t →
    t.events = s.events ++ [e] →
      t.out.valid = true ∧
      match e with
      | .reject k => t.out.present = 0#4 ∧ t.out.status = (match k with
          | .malformed => 1#3
          | .checksumMismatch => 2#3
          | .identityMismatch => 3#3
          | .unsupportedFrameType => 4#3)
      | .accept u => t.out.status = 0#3
          ∧ t.out.present.getLsbD 0 = u.pressure.isSome
          ∧ t.out.present.getLsbD 1 = u.temperature.isSome
          ∧ t.out.present.getLsbD 2 = u.humidity.isSome
          ∧ t.out.present.getLsbD 3 = u.co2.isSome
          ∧ (∀ v, u.pressure = some v → t.out.pa.toInt = v)
          ∧ (∀ d, u.temperature = some d →
              t.out.cSig.toInt = d.sig ∧ t.out.cScale.toNat = d.scale)
          ∧ (∀ d, u.humidity = some d →
              t.out.rhSig.toInt = d.sig ∧ t.out.rhScale.toNat = d.scale)
          ∧ (∀ d, u.co2 = some d →
              t.out.ppmSig.toInt = d.sig ∧ t.out.ppmScale.toNat = d.scale)

/-! ## The frame validator -/

/-- R142: the tokens are the line cut at every comma: joined by commas they are the line, there is one
more of them than commas, and none holds a comma. -/
def Obligations.SplitCutsAtCommas : Prop :=
  ∀ s : Token, List.intercalate [0x2C#8] (split s) = s
    ∧ (split s).length = 1 + s.count 0x2C#8 ∧ ∀ t ∈ split s, 0x2C#8 ∉ t

/-- R142: `DELIM` ends the token under assembly, and the loop that runs it over the characters of the
line leaves the tokens of `split`. -/
def Obligations.DelimSplitsTheLine : Prop :=
  ∀ s : State,
    exec .delim s = .next { s with work := { s.work with
      tokens := s.work.tokens ++ [s.work.cur], cur := [] } }
      ∧ runSplit s = .next { s with work := { s.work with tokens := split s.line, cur := [] } }

/-- R66, R145: each of the twenty-two hexadecimal digit rows is its byte and its value, and shifts that
value in after the mark; a digit where the mark must stand makes the token ill-formed. -/
def Obligations.HexDigitsShiftIn : Prop :=
  ∀ row ∈
      [((0x30#8, .hex0, 0) : Byte × Instr × Nat),
       (0x31#8, .hex1, 1),
       (0x32#8, .hex2, 2),
       (0x33#8, .hex3, 3),
       (0x34#8, .hex4, 4),
       (0x35#8, .hex5, 5),
       (0x36#8, .hex6, 6),
       (0x37#8, .hex7, 7),
       (0x38#8, .hex8, 8),
       (0x39#8, .hex9, 9),
       (0x41#8, .hexA, 10),
       (0x42#8, .hexB, 11),
       (0x43#8, .hexC, 12),
       (0x44#8, .hexD, 13),
       (0x45#8, .hexE, 14),
       (0x46#8, .hexF, 15),
       (0x61#8, .hexALower, 10),
       (0x62#8, .hexBLower, 11),
       (0x63#8, .hexCLower, 12),
       (0x64#8, .hexDLower, 13),
       (0x65#8, .hexELower, 14),
       (0x66#8, .hexFLower, 15)],
    decode .cksumChar [row.1] = .ok row.2.1 ∧ hexval row.1 = some row.2.2
      ∧ ∀ s : State, exec row.2.1 s = .next { s with work := { s.work with ck :=
          if s.work.ck.pos = 0 then { s.work.ck with pos := 1, bad := true }
          else { s.work.ck with
            pos := s.work.ck.pos + 1, value := s.work.ck.value * 16 + row.2.2 } } }

/-- R145: the mark is byte 0 of the checksum token; a second one makes it ill-formed. -/
def Obligations.MarkOpensChecksum : Prop :=
  ∀ s : State, exec .mark s = .next { s with work := { s.work with ck :=
    if s.work.ck.pos = 0 then { s.work.ck with pos := 1 }
    else { s.work.ck with pos := s.work.ck.pos + 1, bad := true } } }

/-- R70, R145: `parse_cksum` accepts exactly the mark and one or more hexadecimal digits, most
significant first. -/
def Obligations.ChecksumTokenGrammar : Prop :=
  ∀ (t : Token) (v : Nat), parseCksum t = some v ↔
    ∃ ds : Token, ds ≠ [] ∧ t = 0x2A#8 :: ds ∧ (∀ b ∈ ds, (hexval b).isSome = true)
      ∧ v = Nat.ofDigits 16 (ds.reverse.map fun b => (hexval b).getD 0)

/-- R145: `CKSUM` leaves the value of the token, or rejects the line as `Malformed`. That a rejection
empties the update under assembly is the model's reading (log 19). -/
def Obligations.CksumParsesTheToken : Prop :=
  ∀ (s : State) (digits : Token), exec (.cksum digits) s = .next
    (match parseCksum (0x2A#8 :: digits) with
      | some v => { s with work := { s.work with ck := {}, parsed := v } }
      | none => { s with work := { s.work with
          ck := {}, update := {}, verdict := some (.reject .malformed) } })

/-- R148: `CRC_CHECK` compares numbers: equal and the state is as before, different and the line is
`ChecksumMismatch`. That a rejection empties the update under assembly is the model's reading
(log 19). -/
def Obligations.CrcCheckCompares : Prop :=
  ∀ s : State,
    ((crc16 (s.line.take (s.line.length - s.params.crcTail))).toNat = s.work.parsed →
      exec .crcCheck s = .next s)
      ∧ ((crc16 (s.line.take (s.line.length - s.params.crcTail))).toNat ≠ s.work.parsed →
        exec .crcCheck s = .next { s with work := { s.work with
          update := {}, verdict := some (.reject .checksumMismatch) } })

/-- R150: `ID_CHECK` compares each expectation that is set with its token, bytewise and whole; an
illegal expectation is refused (U6, log 10). That a rejection empties the update under assembly is the
model's reading (log 19). -/
def Obligations.IdCheckCompares : Prop :=
  ∀ (s : State) (product serial : Token),
    (s.cfgLegal = true →
      ((s.cfgProd.en = true ∧ s.cfgProd.bytes.toList.take s.cfgProd.len.toNat ≠ product)
        ∨ (s.cfgSer.en = true ∧ s.cfgSer.bytes.toList.take s.cfgSer.len.toNat ≠ serial) →
        exec (.idCheck product serial) s = .next { s with work := { s.work with
          update := {}, verdict := some (.reject .identityMismatch) } })
      ∧ ((s.cfgProd.en = false ∨ s.cfgProd.bytes.toList.take s.cfgProd.len.toNat = product) →
        (s.cfgSer.en = false ∨ s.cfgSer.bytes.toList.take s.cfgSer.len.toNat = serial) →
        exec (.idCheck product serial) s = .next s))
      ∧ (s.cfgLegal = false →
        exec (.idCheck product serial) s = .refused .illegalIdentityLength)

/-- R122, R141, R143, R151: the frame-level rows that decide at once. That a rejection empties the update
under assembly is the model's reading (log 19). -/
def Obligations.FrameRowsDecide : Prop :=
  ∀ (s : State) (lineType : Token),
    exec .frameOverlong s = .next { s with work := { s.work with
      update := {}, verdict := some (.reject .malformed) } }
      ∧ exec .frameEmpty s = .next s
      ∧ exec .frameShort s = .next { s with work := { s.work with
        update := {}, verdict := some (.reject .malformed) } }
      ∧ exec (.frameOther lineType) s = .next { s with work := { s.work with
        update := {}, verdict := some (.reject .unsupportedFrameType) } }

/-- R143: fewer than five commas is `Malformed`, whatever else the line holds. -/
def Obligations.ShortLineIsMalformed : Prop :=
  ∀ s : State, s.ovf = false → s.line ≠ [] → s.line.count 0x2C#8 < 5 →
    s.lineGives (.reject .malformed)

/-- R145: a last token that is no checksum token is `Malformed`. -/
def Obligations.BadMarkerIsMalformed : Prop :=
  ∀ s : State, s.ovf = false → 5 ≤ s.line.count 0x2C#8 →
    parseCksum (lastToken (split s.line)) = none → s.lineGives (.reject .malformed)

/-- R148, R205: a CRC that differs is `ChecksumMismatch`, whatever the identity, the type and the
values are. -/
def Obligations.WrongChecksumIsMismatch : Prop :=
  ∀ (s : State) (parsed : Nat), s.HasChecksum parsed →
    (crc16 (coveredSpan s.params s.line)).toNat ≠ parsed → s.lineGives (.reject .checksumMismatch)

/-- R155: with steps 1 to 5 passed, an expectation that is set and differs is `IdentityMismatch`, with
present mask 0, whatever the type and the values are. -/
def Obligations.WrongDeviceIsIdentityMismatch : Prop :=
  ∀ s : State, s.PassesCrc → s.cfgLegal = true →
    (differs s.cfgProd.expected (tokenAt (split s.line) 1) = true
      ∨ differs s.cfgSer.expected (tokenAt (split s.line) 2) = true) →
    s.lineGives (.reject .identityMismatch) ∧ presentMask (eventUpdate (.reject .identityMismatch)) = 0#4

/-- R151: with steps 1 to 6 passed, any token 0 but `"D"`, of any length, is `UnsupportedFrameType`,
whatever the values are. -/
def Obligations.OtherTypeIsUnsupported : Prop :=
  ∀ s : State, s.PassesIdentity → tokenAt (split s.line) 0 ≠ [0x44#8] →
    s.lineGives (.reject .unsupportedFrameType)

/-- R149: what the positional span is for a checksum token of k digits (`CRC_TAIL` = 5). -/
def Obligations.SpanByDigitCount : Prop :=
  ∀ pre h : Token, 4 ≤ pre.length → h ≠ [] →
    let span := coveredSpan Params.decided (pre ++ [0x2C#8, 0x2A#8] ++ h)
    (h.length = 1 → span = pre.take (pre.length - 2))
      ∧ (h.length = 2 → span = pre.take (pre.length - 1))
      ∧ (h.length = 3 → span = pre)
      ∧ (h.length = 4 → span = pre ++ [0x2C#8])
      ∧ (5 ≤ h.length → span = pre ++ [0x2C#8, 0x2A#8] ++ h.take (h.length - 5))

/-- R154: a frame the sender builds, with the parameters at their decided values, is accepted, and the
update has for each channel the conversion of the last pair with its label. -/
def Obligations.WellFormedFrameIsAccepted : Prop :=
  ∀ (s : State) (f : FrameFields), f.lineType = [0x44#8] →
    isToken f.product = true → isToken f.serial = true → isToken f.message = true →
    isToken f.reserved = true →
    (∀ q ∈ f.pairs, isToken q.1 = true ∧ isToken q.2 = true ∧ pairConverts q = true) →
    s.line = buildFrame f → s.ovf = false → s.params = Params.decided → s.cfgLegal = true →
    differs s.cfgProd.expected f.product = false → differs s.cfgSer.expected f.serial = false →
      s.lineGives (.accept (expectedUpdate f.pairs))

/-- R156: one byte changed outside the last five bytes of an accepted line with a four-digit checksum
rejects it, with the kind the overwritten byte decides. -/
def Obligations.OneCorruptedByteIsRejected : Prop :=
  ∀ (cfg : Identity) (line : Token) (u : Update) (i : Nat) (old new : Byte),
    decodeLine Params.decided cfg line = .accept u → (lastToken (split line)).length = 5 →
    i < line.length - 5 → (line)[i]? = some old → new ≠ old → isTerminator new = false →
      (old ≠ 0x2C#8 →
        decodeLine Params.decided cfg (line.set i new) = .reject .checksumMismatch)
      ∧ (old = 0x2C#8 → i + 6 = line.length ∨ (split line).length = 6 →
        decodeLine Params.decided cfg (line.set i new) = .reject .malformed)
      ∧ (old = 0x2C#8 → i + 6 ≠ line.length → (split line).length ≠ 6 →
        decodeLine Params.decided cfg (line.set i new) = .reject .checksumMismatch)

/-- R245 (b): a 0x00 byte in front of an accepted line leaves the CRC as it is, and the line is
`UnsupportedFrameType`. -/
def Obligations.LeadingZeroIsUnsupported : Prop :=
  ∀ (p : Params) (cfg : Identity) (line : Token) (u : Update),
    decodeLine p cfg line = .accept u →
      crc16 (coveredSpan p (0x00#8 :: line)) = crc16 (coveredSpan p line)
        ∧ decodeLine p cfg (0x00#8 :: line) = .reject .unsupportedFrameType

/-! ## The field decoder -/

/-- R171, R244: with the decided parameters the pairs are tokens 4 on, two by two, `floor((N-6)/2)` of
them; the last two tokens are never data, and an unpaired value before them is dropped. -/
def Obligations.PairsLeaveTheLastTwoTokens : Prop :=
  (∀ tokens : List Token, 6 ≤ tokens.length →
    (pairsOf Params.decided tokens).length = (tokens.length - 6) / 2
      ∧ ∀ i q, (pairsOf Params.decided tokens)[i]? = some q →
        tokens[4 + 2 * i]? = some q.1 ∧ tokens[5 + 2 * i]? = some q.2)
    ∧ (∀ (pre : List Token) (r c r' c' : Token), 4 ≤ pre.length →
      pairsOf Params.decided (pre ++ [r, c]) = pairsOf Params.decided (pre ++ [r', c']))
    ∧ ∀ (pre : List Token) (x r c : Token), 4 ≤ pre.length → pre.length % 2 = 0 →
      pairsOf Params.decided (pre ++ [x, r, c]) = pairsOf Params.decided (pre ++ [r, c])

/-- R67, R176, R178: each decimal digit row is its byte and its value; it is an integer digit before
the point and a fraction digit after it. -/
def Obligations.DecimalDigitsAccumulate : Prop :=
  ∀ row ∈
      [((0x30#8, .dec0, 0) : Byte × Instr × Nat),
       (0x31#8, .dec1, 1),
       (0x32#8, .dec2, 2),
       (0x33#8, .dec3, 3),
       (0x34#8, .dec4, 4),
       (0x35#8, .dec5, 5),
       (0x36#8, .dec6, 6),
       (0x37#8, .dec7, 7),
       (0x38#8, .dec8, 8),
       (0x39#8, .dec9, 9)],
    decode .valueChar [row.1] = .ok row.2.1 ∧ decval row.1 = some row.2.2
      ∧ ∀ s : State, exec row.2.1 s = .next { s with work := { s.work with lit :=
          if s.work.lit.point then { s.work.lit with
            pos := s.work.lit.pos + 1, m := s.work.lit.m * 10 + row.2.2,
            nfrac := s.work.lit.nfrac + 1 }
          else { s.work.lit with
            pos := s.work.lit.pos + 1, m := s.work.lit.m * 10 + row.2.2,
            nint := s.work.lit.nint + 1 } } }

/-- R176, R178: a sign stands at byte 0 only, a point at most once and only in a decimal literal;
anywhere else they make the literal ill-formed. -/
def Obligations.SignAndPointPlaces : Prop :=
  ∀ s : State,
    (s.work.lit.pos = 0 →
      exec .plus s = .next { s with work := { s.work with lit :=
        { s.work.lit with pos := 1, neg := false } } }
      ∧ exec .minus s = .next { s with work := { s.work with lit :=
        { s.work.lit with pos := 1, neg := true } } })
      ∧ (s.work.lit.pos ≠ 0 →
        exec .plus s = .next { s with work := { s.work with lit :=
          { s.work.lit with pos := s.work.lit.pos + 1, bad := true } } }
        ∧ exec .minus s = .next { s with work := { s.work with lit :=
          { s.work.lit with pos := s.work.lit.pos + 1, bad := true } } })
      ∧ (s.work.lit.dec = true → s.work.lit.point = false →
        exec .point s = .next { s with work := { s.work with lit :=
          { s.work.lit with pos := s.work.lit.pos + 1, point := true } } })
      ∧ (s.work.lit.dec = false ∨ s.work.lit.point = true →
        exec .point s = .next { s with work := { s.work with lit :=
          { s.work.lit with pos := s.work.lit.pos + 1, bad := true } } })

/-- R71, R176: `parse_int` accepts exactly an optional sign and one or more decimal digits whose value
is in range, and answers that value. -/
def Obligations.IntegerLiteralGrammar : Prop :=
  ∀ (t : Token) (v : Int), parseInt t = some v ↔
    ∃ sign ds : Token, t = sign ++ ds ∧ (sign = [] ∨ sign = [0x2B#8] ∨ sign = [0x2D#8]) ∧ ds ≠ []
      ∧ (∀ b ∈ ds, (decval b).isSome = true)
      ∧ v = (if sign = [0x2D#8] then -1 else 1)
          * (Nat.ofDigits 10 (ds.reverse.map fun b => (decval b).getD 0) : Nat)
      ∧ -2147483648 ≤ v ∧ v ≤ 2147483647

/-- R72, R178: `parse_dec` accepts exactly an optional sign, integer digits and, where there is a point,
fraction digits after it; the significand is all the digits and the scale the count of fraction
digits. -/
def Obligations.DecimalLiteralGrammar : Prop :=
  ∀ (t : Token) (r : DecimalResult), parseDec t = some r ↔
    ∃ sign ip fp : Token, (sign = [] ∨ sign = [0x2B#8] ∨ sign = [0x2D#8]) ∧ ip ≠ []
      ∧ ((fp = [] ∧ t = sign ++ ip) ∨ (fp ≠ [] ∧ t = sign ++ ip ++ 0x2E#8 :: fp))
      ∧ (∀ b ∈ ip ++ fp, (decval b).isSome = true)
      ∧ r.scale = fp.length
      ∧ r.sig = (if sign = [0x2D#8] then -1 else 1)
          * (Nat.ofDigits 10 ((ip ++ fp).reverse.map fun b => (decval b).getD 0) : Nat)
      ∧ -2147483648 ≤ r.sig ∧ r.sig ≤ 2147483647

/-- R174: `UNIT_PA` attaches the integer value of its token to the pressure, or rejects the frame. That a
rejection empties the update under assembly is the model's reading (log 19). -/
def Obligations.UnitPaConverts : Prop :=
  ∀ (s : State) (value : Token), exec (.unitPa value) s = .next
    (afterField ((parseInt value).map fun v => { s.work.update with pressure := some v }) s)

/-- R175, R177, R179: `UNIT_C`, `UNIT_RH` and `UNIT_PPM` attach the decimal value of their token each to
its own channel, or reject the frame. That a rejection empties the update under assembly is the model's
reading (log 19). -/
def Obligations.DecimalUnitsConvert : Prop :=
  ∀ (s : State) (value : Token),
    exec (.unitC value) s = .next (afterField
      ((parseDec value).map fun d => { s.work.update with temperature := some d }) s)
      ∧ exec (.unitRh value) s = .next (afterField
        ((parseDec value).map fun d => { s.work.update with humidity := some d }) s)
      ∧ exec (.unitPpm value) s = .next (afterField
        ((parseDec value).map fun d => { s.work.update with co2 := some d }) s)

/-- R173, R172: a unit token that is none of the four labels selects `UNIT_OTHER`, which does nothing
whatever its value token is. -/
def Obligations.UnknownUnitIsIgnored : Prop :=
  ∀ (s : State) (value unit : Token), unit ≠ [0x50#8, 0x61#8] → unit ≠ [0x43#8] → unit ≠ [0x25#8] →
    unit ≠ [0x70#8, 0x70#8, 0x6D#8] →
      decodePair value unit = .unitOther value unit ∧ exec (.unitOther value unit) s = .next s

/-- R170: `FRAME_D` decodes the pairs of the tokens, with no result of the line known before: the line
is accepted or rejected as `decode_fields` says. -/
def Obligations.FrameDDecodesFields : Prop :=
  ∀ s : State, ∃ w : Work, exec .frameD s = .next { s with work := w }
    ∧ w.verdict = (decodeFields s.params s.work.tokens).event
    ∧ w.tokens = s.work.tokens ∧ w.cur = s.work.cur ∧ w.ck = s.work.ck ∧ w.parsed = s.work.parsed

/-- R180: of several pairs with one label the last wins, and the others leave the channel alone. -/
def Obligations.LastPairWins : Prop :=
  ∀ (pairs : List (Token × Token)), (∀ q ∈ pairs, pairConverts q = true) →
    decodePairs {} pairs = .accept (expectedUpdate pairs)

/-- R181: one bad literal of a recognized unit, wherever it stands, rejects the whole frame. -/
def Obligations.OneBadLiteralRejectsFrame : Prop :=
  ∀ s : State, s.PassesIdentity → tokenAt (split s.line) 0 = [0x44#8] →
    (∃ q ∈ pairsOf s.params (split s.line), pairConverts q = false) →
      s.lineGives (.reject .malformed)
end

