-- ==== Sys2Proof/Laws/Decode.lean ====
section
/-! SUPPORT. What the decoder's tables can answer. -/

namespace Sys2Proof

/-- An answer of the lookup is a row of the table. -/
theorem mem_of_lookupRow {rows : List (Byte × Instr)} {b : Byte} {i : Instr}
    (h : lookupRow rows b = some i) : (b, i) ∈ rows := by
  induction rows with
  | nil => simp [lookupRow] at h
  | cons c r ih =>
    obtain ⟨k, j⟩ := c
    simp only [lookupRow] at h
    split at h
    · simp_all
    · exact List.mem_cons_of_mem _ (ih h)

/-- No two rows of a character table have the same byte. -/
theorem cksumCharRows_distinct : cksumCharRows.Pairwise fun a b => a.1 ≠ b.1 := by decide +kernel

theorem valueCharRows_distinct : valueCharRows.Pairwise fun a b => a.1 ≠ b.1 := by decide +kernel

/-- A byte that no row of the checksum token has is neither the mark nor a digit. -/
theorem lookup_cksum_none : ∀ b : Byte, lookupRow cksumCharRows b = none →
    b ≠ Config.markByte ∧ hexval b = none := by decide +kernel

/-- A byte that no row of a value token has is no digit, sign or point. -/
theorem lookup_value_none : ∀ b : Byte, lookupRow valueCharRows b = none →
    decval b = none ∧ b ≠ Config.plusByte ∧ b ≠ Config.minusByte ∧ b ≠ Config.pointByte := by
  decide +kernel

theorem hexval_mark : hexval Config.markByte = none := by decide

theorem decval_sign : decval Config.plusByte = none ∧ decval Config.minusByte = none
    ∧ decval Config.pointByte = none := by decide

/-- Cutting at the first delimiter. -/
theorem cutFirst_append {t r : Token} (h : isToken t = true) :
    cutFirst (t ++ Config.delimByte :: r) = (t, some r) := by
  induction t with
  | nil => simp [cutFirst]
  | cons b t ih =>
    simp only [isToken, List.all_cons, Bool.and_eq_true] at h
    have hb : b ≠ Config.delimByte := by
      intro hb
      simp [isTokenByte, hb] at h
    simp [cutFirst, hb, ih (by simpa [isToken] using h.2)]

theorem cutFirst_token {t : Token} (h : isToken t = true) : cutFirst t = (t, none) := by
  induction t with
  | nil => rfl
  | cons b t ih =>
    simp only [isToken, List.all_cons, Bool.and_eq_true] at h
    have hb : b ≠ Config.delimByte := by
      intro hb
      simp [isTokenByte, hb] at h
    simp [cutFirst, hb, ih (by simpa [isToken] using h.2)]

theorem twoTokens_append {a b : Token} (ha : isToken a = true) (hb : isToken b = true) :
    twoTokens (a ++ Config.delimByte :: b) = some (a, b) := by
  simp [twoTokens, cutFirst_append ha, cutFirst_token hb]

/-- What the cut gives is what was cut. -/
theorem cutFirst_some {t a r : Token} (h : cutFirst t = (a, some r)) : t = a ++ Config.delimByte :: r := by
  induction t generalizing a with
  | nil => simp [cutFirst] at h
  | cons b t ih =>
    simp only [cutFirst] at h
    split at h
    · next hb => simp_all
    · simp only [Prod.mk.injEq] at h
      obtain ⟨rfl, h⟩ := h
      simp [← ih (Prod.ext rfl h)]

theorem cutFirst_none {t a : Token} (h : cutFirst t = (a, none)) : t = a := by
  induction t generalizing a with
  | nil => simp_all [cutFirst]
  | cons b t ih =>
    simp only [cutFirst] at h
    split at h
    · simp at h
    · simp only [Prod.mk.injEq] at h
      obtain ⟨rfl, h⟩ := h
      simp [← ih (Prod.ext rfl h)]

theorem twoTokens_some {t a b : Token} (h : twoTokens t = some (a, b)) :
    t = a ++ Config.delimByte :: b := by
  unfold twoTokens at h
  split at h
  · cases h
  · next x r hc =>
    split at h
    · next c hc' => cases h; rw [cutFirst_some hc, cutFirst_none hc']
    · cases h

end Sys2Proof
end

