-- ==== Sys2Proof/Laws/State.lean ====
section
/-! SUPPORT. One lemma per field per named update of State, each by rfl. -/

namespace Sys2Proof.Machine

@[simp] theorem setWork_lb (w : Work) (s : State) : (s.setWork w).lb = s.lb := rfl
@[simp] theorem setWork_len (w : Work) (s : State) : (s.setWork w).len = s.len := rfl
@[simp] theorem setWork_ovf (w : Work) (s : State) : (s.setWork w).ovf = s.ovf := rfl
@[simp] theorem setWork_cfgProd (w : Work) (s : State) : (s.setWork w).cfgProd = s.cfgProd := rfl
@[simp] theorem setWork_cfgSer (w : Work) (s : State) : (s.setWork w).cfgSer = s.cfgSer := rfl
@[simp] theorem setWork_out (w : Work) (s : State) : (s.setWork w).out = s.out := rfl
@[simp] theorem setWork_rx (w : Work) (s : State) : (s.setWork w).rx = s.rx := rfl
@[simp] theorem setWork_inReady (w : Work) (s : State) : (s.setWork w).inReady = s.inReady := rfl
@[simp] theorem setWork_events (w : Work) (s : State) : (s.setWork w).events = s.events := rfl
@[simp] theorem setWork_work (w : Work) (s : State) : (s.setWork w).work = w := rfl
@[simp] theorem setWork_params (w : Work) (s : State) : (s.setWork w).params = s.params := rfl
@[simp] theorem setWork_freeIx (w : Work) (s : State) : (s.setWork w).freeIx = s.freeIx := rfl

@[simp] theorem setRx_lb (r : List PortSample) (s : State) : (s.setRx r).lb = s.lb := rfl
@[simp] theorem setRx_len (r : List PortSample) (s : State) : (s.setRx r).len = s.len := rfl
@[simp] theorem setRx_ovf (r : List PortSample) (s : State) : (s.setRx r).ovf = s.ovf := rfl
@[simp] theorem setRx_cfgProd (r : List PortSample) (s : State) : (s.setRx r).cfgProd = s.cfgProd := rfl
@[simp] theorem setRx_cfgSer (r : List PortSample) (s : State) : (s.setRx r).cfgSer = s.cfgSer := rfl
@[simp] theorem setRx_out (r : List PortSample) (s : State) : (s.setRx r).out = s.out := rfl
@[simp] theorem setRx_rx (r : List PortSample) (s : State) : (s.setRx r).rx = r := rfl
@[simp] theorem setRx_inReady (r : List PortSample) (s : State) : (s.setRx r).inReady = s.inReady := rfl
@[simp] theorem setRx_events (r : List PortSample) (s : State) : (s.setRx r).events = s.events := rfl
@[simp] theorem setRx_work (r : List PortSample) (s : State) : (s.setRx r).work = s.work := rfl
@[simp] theorem setRx_params (r : List PortSample) (s : State) : (s.setRx r).params = s.params := rfl
@[simp] theorem setRx_freeIx (r : List PortSample) (s : State) : (s.setRx r).freeIx = s.freeIx := rfl

@[simp] theorem setReady_lb (b : Bool) (s : State) : (s.setReady b).lb = s.lb := rfl
@[simp] theorem setReady_len (b : Bool) (s : State) : (s.setReady b).len = s.len := rfl
@[simp] theorem setReady_ovf (b : Bool) (s : State) : (s.setReady b).ovf = s.ovf := rfl
@[simp] theorem setReady_cfgProd (b : Bool) (s : State) : (s.setReady b).cfgProd = s.cfgProd := rfl
@[simp] theorem setReady_cfgSer (b : Bool) (s : State) : (s.setReady b).cfgSer = s.cfgSer := rfl
@[simp] theorem setReady_out (b : Bool) (s : State) : (s.setReady b).out = s.out := rfl
@[simp] theorem setReady_inReady (b : Bool) (s : State) : (s.setReady b).inReady = b := rfl
@[simp] theorem setReady_rx (b : Bool) (s : State) : (s.setReady b).rx = s.rx := rfl
@[simp] theorem setReady_events (b : Bool) (s : State) : (s.setReady b).events = s.events := rfl
@[simp] theorem setReady_work (b : Bool) (s : State) : (s.setReady b).work = s.work := rfl
@[simp] theorem setReady_params (b : Bool) (s : State) : (s.setReady b).params = s.params := rfl
@[simp] theorem setReady_freeIx (b : Bool) (s : State) : (s.setReady b).freeIx = s.freeIx := rfl
@[simp] theorem setReady_line (b : Bool) (s : State) : (s.setReady b).line = s.line := rfl
@[simp] theorem setReady_cfgLegal (b : Bool) (s : State) : (s.setReady b).cfgLegal = s.cfgLegal := rfl

@[simp] theorem incLen_lb (s : State) : (incLen s).lb = s.lb := rfl
@[simp] theorem incLen_len (s : State) : (incLen s).len = s.len + 1#8 := rfl
@[simp] theorem incLen_ovf (s : State) : (incLen s).ovf = s.ovf := rfl
@[simp] theorem incLen_cfgProd (s : State) : (incLen s).cfgProd = s.cfgProd := rfl
@[simp] theorem incLen_cfgSer (s : State) : (incLen s).cfgSer = s.cfgSer := rfl
@[simp] theorem incLen_out (s : State) : (incLen s).out = s.out := rfl
@[simp] theorem incLen_rx (s : State) : (incLen s).rx = s.rx := rfl
@[simp] theorem incLen_inReady (s : State) : (incLen s).inReady = s.inReady := rfl
@[simp] theorem incLen_events (s : State) : (incLen s).events = s.events := rfl
@[simp] theorem incLen_work (s : State) : (incLen s).work = s.work := rfl
@[simp] theorem incLen_params (s : State) : (incLen s).params = s.params := rfl
@[simp] theorem incLen_freeIx (s : State) : (incLen s).freeIx = s.freeIx := rfl

@[simp] theorem setOvf_lb (s : State) : (setOvf s).lb = s.lb := rfl
@[simp] theorem setOvf_len (s : State) : (setOvf s).len = s.len := rfl
@[simp] theorem setOvf_ovf (s : State) : (setOvf s).ovf = true := rfl
@[simp] theorem setOvf_cfgProd (s : State) : (setOvf s).cfgProd = s.cfgProd := rfl
@[simp] theorem setOvf_cfgSer (s : State) : (setOvf s).cfgSer = s.cfgSer := rfl
@[simp] theorem setOvf_out (s : State) : (setOvf s).out = s.out := rfl
@[simp] theorem setOvf_rx (s : State) : (setOvf s).rx = s.rx := rfl
@[simp] theorem setOvf_inReady (s : State) : (setOvf s).inReady = s.inReady := rfl
@[simp] theorem setOvf_events (s : State) : (setOvf s).events = s.events := rfl
@[simp] theorem setOvf_work (s : State) : (setOvf s).work = s.work := rfl
@[simp] theorem setOvf_params (s : State) : (setOvf s).params = s.params := rfl
@[simp] theorem setOvf_freeIx (s : State) : (setOvf s).freeIx = s.freeIx := rfl

@[simp] theorem strobeEnd_lb (s : State) : (strobeEnd s).lb = s.lb := rfl
@[simp] theorem strobeEnd_len (s : State) : (strobeEnd s).len = s.len := rfl
@[simp] theorem strobeEnd_ovf (s : State) : (strobeEnd s).ovf = s.ovf := rfl
@[simp] theorem strobeEnd_cfgProd (s : State) : (strobeEnd s).cfgProd = s.cfgProd := rfl
@[simp] theorem strobeEnd_cfgSer (s : State) : (strobeEnd s).cfgSer = s.cfgSer := rfl
@[simp] theorem strobeEnd_out (s : State) : (strobeEnd s).out = driveIdle s.freeIx := rfl
@[simp] theorem strobeEnd_rx (s : State) : (strobeEnd s).rx = s.rx := rfl
@[simp] theorem strobeEnd_inReady (s : State) : (strobeEnd s).inReady = s.inReady := rfl
@[simp] theorem strobeEnd_events (s : State) : (strobeEnd s).events = s.events := rfl
@[simp] theorem strobeEnd_work (s : State) : (strobeEnd s).work = s.work := rfl
@[simp] theorem strobeEnd_params (s : State) : (strobeEnd s).params = s.params := rfl
@[simp] theorem strobeEnd_freeIx (s : State) : (strobeEnd s).freeIx = s.freeIx + 1 := rfl

@[simp] theorem emit_lb (e : Event) (s : State) : (emit e s).lb = s.lb := rfl
@[simp] theorem emit_len (e : Event) (s : State) : (emit e s).len = s.len := rfl
@[simp] theorem emit_ovf (e : Event) (s : State) : (emit e s).ovf = s.ovf := rfl
@[simp] theorem emit_cfgProd (e : Event) (s : State) : (emit e s).cfgProd = s.cfgProd := rfl
@[simp] theorem emit_cfgSer (e : Event) (s : State) : (emit e s).cfgSer = s.cfgSer := rfl
@[simp] theorem emit_out (e : Event) (s : State) : (emit e s).out = driveEvent s.freeIx e := rfl
@[simp] theorem emit_rx (e : Event) (s : State) : (emit e s).rx = s.rx := rfl
@[simp] theorem emit_inReady (e : Event) (s : State) : (emit e s).inReady = s.inReady := rfl
@[simp] theorem emit_events (e : Event) (s : State) : (emit e s).events = s.events ++ [e] := rfl
@[simp] theorem emit_work (e : Event) (s : State) : (emit e s).work = s.work := rfl
@[simp] theorem emit_params (e : Event) (s : State) : (emit e s).params = s.params := rfl
@[simp] theorem emit_freeIx (e : Event) (s : State) : (emit e s).freeIx = s.freeIx + 1 := rfl

@[simp] theorem setCk_lb (c : CksumAcc) (s : State) : (setCk c s).lb = s.lb := rfl
@[simp] theorem setCk_len (c : CksumAcc) (s : State) : (setCk c s).len = s.len := rfl
@[simp] theorem setCk_ovf (c : CksumAcc) (s : State) : (setCk c s).ovf = s.ovf := rfl
@[simp] theorem setCk_cfgProd (c : CksumAcc) (s : State) : (setCk c s).cfgProd = s.cfgProd := rfl
@[simp] theorem setCk_cfgSer (c : CksumAcc) (s : State) : (setCk c s).cfgSer = s.cfgSer := rfl
@[simp] theorem setCk_out (c : CksumAcc) (s : State) : (setCk c s).out = s.out := rfl
@[simp] theorem setCk_rx (c : CksumAcc) (s : State) : (setCk c s).rx = s.rx := rfl
@[simp] theorem setCk_inReady (c : CksumAcc) (s : State) : (setCk c s).inReady = s.inReady := rfl
@[simp] theorem setCk_events (c : CksumAcc) (s : State) : (setCk c s).events = s.events := rfl
@[simp] theorem setCk_work (c : CksumAcc) (s : State) : (setCk c s).work = { s.work with ck := c } := rfl
@[simp] theorem setCk_params (c : CksumAcc) (s : State) : (setCk c s).params = s.params := rfl
@[simp] theorem setCk_freeIx (c : CksumAcc) (s : State) : (setCk c s).freeIx = s.freeIx := rfl

@[simp] theorem setLit_lb (l : LitAcc) (s : State) : (setLit l s).lb = s.lb := rfl
@[simp] theorem setLit_len (l : LitAcc) (s : State) : (setLit l s).len = s.len := rfl
@[simp] theorem setLit_ovf (l : LitAcc) (s : State) : (setLit l s).ovf = s.ovf := rfl
@[simp] theorem setLit_cfgProd (l : LitAcc) (s : State) : (setLit l s).cfgProd = s.cfgProd := rfl
@[simp] theorem setLit_cfgSer (l : LitAcc) (s : State) : (setLit l s).cfgSer = s.cfgSer := rfl
@[simp] theorem setLit_out (l : LitAcc) (s : State) : (setLit l s).out = s.out := rfl
@[simp] theorem setLit_rx (l : LitAcc) (s : State) : (setLit l s).rx = s.rx := rfl
@[simp] theorem setLit_inReady (l : LitAcc) (s : State) : (setLit l s).inReady = s.inReady := rfl
@[simp] theorem setLit_events (l : LitAcc) (s : State) : (setLit l s).events = s.events := rfl
@[simp] theorem setLit_work (l : LitAcc) (s : State) : (setLit l s).work = { s.work with lit := l } := rfl
@[simp] theorem setLit_params (l : LitAcc) (s : State) : (setLit l s).params = s.params := rfl
@[simp] theorem setLit_freeIx (l : LitAcc) (s : State) : (setLit l s).freeIx = s.freeIx := rfl

@[simp] theorem setUpdate_lb (u : Update) (s : State) : (setUpdate u s).lb = s.lb := rfl
@[simp] theorem setUpdate_len (u : Update) (s : State) : (setUpdate u s).len = s.len := rfl
@[simp] theorem setUpdate_ovf (u : Update) (s : State) : (setUpdate u s).ovf = s.ovf := rfl
@[simp] theorem setUpdate_cfgProd (u : Update) (s : State) : (setUpdate u s).cfgProd = s.cfgProd := rfl
@[simp] theorem setUpdate_cfgSer (u : Update) (s : State) : (setUpdate u s).cfgSer = s.cfgSer := rfl
@[simp] theorem setUpdate_out (u : Update) (s : State) : (setUpdate u s).out = s.out := rfl
@[simp] theorem setUpdate_rx (u : Update) (s : State) : (setUpdate u s).rx = s.rx := rfl
@[simp] theorem setUpdate_inReady (u : Update) (s : State) : (setUpdate u s).inReady = s.inReady := rfl
@[simp] theorem setUpdate_events (u : Update) (s : State) : (setUpdate u s).events = s.events := rfl
@[simp] theorem setUpdate_work (u : Update) (s : State) : (setUpdate u s).work = { s.work with update := u } := rfl
@[simp] theorem setUpdate_params (u : Update) (s : State) : (setUpdate u s).params = s.params := rfl
@[simp] theorem setUpdate_freeIx (u : Update) (s : State) : (setUpdate u s).freeIx = s.freeIx := rfl

@[simp] theorem raise_lb (k : RejectKind) (s : State) : (raise k s).lb = s.lb := rfl
@[simp] theorem raise_len (k : RejectKind) (s : State) : (raise k s).len = s.len := rfl
@[simp] theorem raise_ovf (k : RejectKind) (s : State) : (raise k s).ovf = s.ovf := rfl
@[simp] theorem raise_cfgProd (k : RejectKind) (s : State) : (raise k s).cfgProd = s.cfgProd := rfl
@[simp] theorem raise_cfgSer (k : RejectKind) (s : State) : (raise k s).cfgSer = s.cfgSer := rfl
@[simp] theorem raise_out (k : RejectKind) (s : State) : (raise k s).out = s.out := rfl
@[simp] theorem raise_rx (k : RejectKind) (s : State) : (raise k s).rx = s.rx := rfl
@[simp] theorem raise_inReady (k : RejectKind) (s : State) : (raise k s).inReady = s.inReady := rfl
@[simp] theorem raise_events (k : RejectKind) (s : State) : (raise k s).events = s.events := rfl
@[simp] theorem raise_work (k : RejectKind) (s : State) : (raise k s).work = { s.work with verdict := some (.reject k), update := {} } := rfl
@[simp] theorem raise_params (k : RejectKind) (s : State) : (raise k s).params = s.params := rfl
@[simp] theorem raise_freeIx (k : RejectKind) (s : State) : (raise k s).freeIx = s.freeIx := rfl

/-- `in_ready` is 0 at every edge with `rst = 1` (R27). -/
@[simp] theorem inReady_of_rst {p : PortSample} (h : p.rst = true) : p.inReady = false := by
  simp [PortSample.inReady, h]

@[simp] theorem setWork_setWork (v w : Work) (s : State) : (s.setWork v).setWork w = s.setWork w := rfl

@[simp] theorem setWork_self (s : State) : s.setWork s.work = s := rfl

/-- The line is read from the buffer and the length alone. -/
theorem line_congr {s t : State} (hb : s.lb = t.lb) (hl : s.len = t.len) : s.line = t.line := by
  simp [State.line, State.load, hb, hl]

@[simp] theorem setWork_line (w : Work) (s : State) : (s.setWork w).line = s.line := rfl

@[simp] theorem emit_line (e : Event) (s : State) : (emit e s).line = s.line := rfl

@[simp] theorem strobeEnd_line (s : State) : (strobeEnd s).line = s.line := rfl

@[simp] theorem setRx_line (r : List PortSample) (s : State) : (s.setRx r).line = s.line := rfl

@[simp] theorem setWork_cfgLegal (w : Work) (s : State) : (s.setWork w).cfgLegal = s.cfgLegal := rfl

@[simp] theorem line_length (s : State) : s.line.length = s.len.toNat := by simp [State.line]

/-- The line is empty exactly when `LEN` is 0. -/
theorem line_eq_nil_iff (s : State) : s.line = [] ↔ s.len = 0#8 := by
  rw [← List.length_eq_zero_iff, line_length]
  exact ⟨fun h => BitVec.eq_of_toNat_eq (by simpa using h), fun h => by simp [h]⟩

end Sys2Proof.Machine
end

