-- ==== Sys2Proof/Laws/Ops.lean ====
section
/-! SUPPORT. What sequencing can do, the laws of the line buffer, and what the shared operations over
one state leave (one lemma per operation; later proofs cite these). -/

namespace Sys2Proof.Machine

/-! ## Sequencing -/

@[simp] theorem andThen_next (s : State) (g : State → Result) : andThen (.next s) g = g s := rfl

@[simp] theorem andThen_fault (e : Fault) (g : State → Result) : andThen (.fault e) g = .fault e := rfl

@[simp] theorem andThen_refused (e : Refusal) (g : State → Result) :
    andThen (.refused e) g = .refused e := rfl

/-- A sequence answers a next state exactly when both parts do. -/
theorem andThen_eq_next {r : Result} {g : State → Result} {t : State} :
    andThen r g = .next t ↔ ∃ s, r = .next s ∧ g s = .next t := by
  cases r <;> simp [andThen]

theorem unlessDecided_of_decided {g : State → Result} {s : State} (h : s.decided = true) :
    unlessDecided g s = .next s := by simp [unlessDecided, h]

theorem unlessDecided_of_open {g : State → Result} {s : State} (h : s.decided = false) :
    unlessDecided g s = g s := by simp [unlessDecided, h]

/-- A loop whose body always goes on is a fold. -/
theorem forBytes_eq_foldl {f : Byte → State → Result} {g : State → Byte → State}
    (h : ∀ b s, f b s = .next (g s b)) (t : Token) (s : State) :
    forBytes f t s = .next (t.foldl g s) := by
  induction t generalizing s with
  | nil => rfl
  | cons b r ih => simp [forBytes, h, ih]

/-! ## The line buffer -/

namespace Memory

theorem read_cons_same (a : Nat) (v : Byte) (r : List Host.Cell) (h : read r a = unwritten) :
    read (cons a v r) a = v := by
  unfold cons
  split
  · next hv => rw [h, hv]
  · simp [read]

theorem read_cons_other {a b : Nat} (v : Byte) (r : List Host.Cell) (h : b ≠ a) :
    read (cons a v r) b = read r b := by
  unfold cons
  split
  · rfl
  · simp [read, Ne.symm h]

/-- Below the first listed index everything reads as unwritten. -/
theorem read_below {lo a : Nat} {m : List Host.Cell} (h : wfFrom lo m = true) (ha : a < lo) :
    read m a = unwritten := by
  induction m generalizing lo with
  | nil => rfl
  | cons c r ih =>
    obtain ⟨k, v⟩ := c
    simp only [wfFrom, Bool.and_eq_true, decide_eq_true_eq] at h
    have hk : k ≠ a := by omega
    simp only [read, hk, if_false]
    exact ih h.2 (by omega)

theorem wfFrom_mono {lo lo' : Nat} {m : List Host.Cell} (h : wfFrom lo m = true) (hl : lo' ≤ lo) :
    wfFrom lo' m = true := by
  cases m with
  | nil => rfl
  | cons c r =>
    obtain ⟨k, v⟩ := c
    simp only [wfFrom, Bool.and_eq_true, decide_eq_true_eq] at h ⊢
    exact ⟨⟨⟨by omega, h.1.1.2⟩, h.1.2⟩, h.2⟩

theorem wfFrom_cons {lo a : Nat} {v : Byte} {r : List Host.Cell} (h : wfFrom (a + 1) r = true)
    (hlo : lo ≤ a) (ha : a < Config.maxLine) : wfFrom lo (cons a v r) = true := by
  unfold cons
  split
  · exact wfFrom_mono h (by omega)
  · next hv => simp [wfFrom, h, hlo, ha, hv]

/-- A read after a write to the same index gives the value written. -/
theorem read_write_same {lo : Nat} {m : List Host.Cell} (h : wfFrom lo m = true) (a : Nat) (v : Byte) :
    read (write m a v) a = v := by
  induction m generalizing lo with
  | nil => exact read_cons_same a v [] rfl
  | cons c r ih =>
    obtain ⟨k, w⟩ := c
    have h' := h
    simp only [wfFrom, Bool.and_eq_true, decide_eq_true_eq] at h
    simp only [write]
    split
    · next hk =>
      have : k ≠ a := by omega
      simp only [read, this, if_false]
      exact ih h.2
    · split
      · next hk => exact read_cons_same a v r (read_below h.2 (by omega))
      · next hk hk' =>
        refine read_cons_same a v _ (read_below (lo := k) ?_ (by omega))
        simp only [wfFrom, Bool.and_eq_true, decide_eq_true_eq]
        exact ⟨⟨⟨le_refl k, h.1.1.2⟩, h.1.2⟩, h.2⟩

/-- A write leaves every other index alone. -/
theorem read_write_other {lo : Nat} {m : List Host.Cell} (h : wfFrom lo m = true) {a b : Nat} (v : Byte)
    (hab : b ≠ a) : read (write m a v) b = read m b := by
  induction m generalizing lo with
  | nil => exact read_cons_other v [] hab
  | cons c r ih =>
    obtain ⟨k, w⟩ := c
    simp only [wfFrom, Bool.and_eq_true, decide_eq_true_eq] at h
    simp only [write]
    split
    · simp only [read]
      split
      · rfl
      · exact ih h.2
    · split
      · next hk =>
        rw [read_cons_other v r hab]
        simp [read, hk, Ne.symm hab]
      · exact read_cons_other v _ hab

/-- A write keeps the canonical form. -/
theorem wfFrom_write {lo a : Nat} {m : List Host.Cell} (h : wfFrom lo m = true) (v : Byte) (hlo : lo ≤ a)
    (ha : a < Config.maxLine) : wfFrom lo (write m a v) = true := by
  induction m generalizing lo with
  | nil => exact wfFrom_cons rfl hlo ha
  | cons c r ih =>
    obtain ⟨k, w⟩ := c
    simp only [wfFrom, Bool.and_eq_true, decide_eq_true_eq] at h
    simp only [write]
    split
    · next hk =>
      simp only [wfFrom, Bool.and_eq_true, decide_eq_true_eq]
      exact ⟨⟨⟨h.1.1.1, h.1.1.2⟩, h.1.2⟩, ih h.2 hk⟩
    · split
      · next hk => exact wfFrom_cons (hk ▸ h.2) hlo ha
      · refine wfFrom_cons ?_ hlo ha
        simp only [wfFrom, Bool.and_eq_true, decide_eq_true_eq]
        exact ⟨⟨⟨by omega, h.1.1.2⟩, h.1.2⟩, h.2⟩

/-- Every operation on the buffer keeps the canonical form. -/
theorem wf_write {m : List Host.Cell} (h : wf m = true) {a : Nat} (v : Byte) (ha : a < Config.maxLine) :
    wf (write m a v) = true := wfFrom_write h v (Nat.zero_le a) ha

theorem wf_reset : wf State.reset.lb = true := rfl

end Memory

/-- Everything a store can do. -/
theorem storeByte_eq_next {i : Nat} {v : Byte} {s t : State} :
    storeByte i v s = .next t ↔
      i < Config.maxLine ∧ t = { s with lb := Memory.write s.lb i v } := by
  unfold storeByte
  split <;> simp_all [eq_comm]

/-! ## The end of a line -/

@[simp] theorem finishLine_lb (s : State) : (finishLine s).lb = s.lb := by
  unfold finishLine; split <;> rfl
@[simp] theorem finishLine_len (s : State) : (finishLine s).len = 0#8 := by
  unfold finishLine; split <;> rfl
@[simp] theorem finishLine_ovf (s : State) : (finishLine s).ovf = false := by
  unfold finishLine; split <;> rfl
@[simp] theorem finishLine_cfgProd (s : State) : (finishLine s).cfgProd = s.cfgProd := by
  unfold finishLine; split <;> rfl
@[simp] theorem finishLine_cfgSer (s : State) : (finishLine s).cfgSer = s.cfgSer := by
  unfold finishLine; split <;> rfl
@[simp] theorem finishLine_rx (s : State) : (finishLine s).rx = s.rx := by
  unfold finishLine; split <;> rfl
@[simp] theorem finishLine_inReady (s : State) : (finishLine s).inReady = s.inReady := by
  unfold finishLine; split <;> rfl
@[simp] theorem finishLine_work (s : State) : (finishLine s).work = {} := by
  unfold finishLine; split <;> rfl
@[simp] theorem finishLine_params (s : State) : (finishLine s).params = s.params := by
  unfold finishLine; split <;> rfl

/-- The event of a line is appended to the output sequence; a line without one appends nothing. -/
theorem finishLine_events (s : State) : (finishLine s).events = s.events ++ s.work.verdict.toList := by
  unfold finishLine; split <;> simp_all

end Sys2Proof.Machine
end

