-- ==== Sys2Proof/Laws/Checksum.lean ====
section
/-! SUPPORT. The checksum token, byte by byte, is R145's pseudocode. -/

namespace Sys2Proof.Machine

/-- What one byte of the checksum token does. -/
def cksumCharStep (s : State) (b : Byte) : State :=
  if b = Config.markByte then
    if s.work.ck.pos = 0 then setCk { s.work.ck with pos := s.work.ck.pos + 1 } s
    else cksumIllFormed s
  else
    match hexval b with
    | some d => cksumDigit d s
    | none => cksumIllFormed s

theorem runCksumChar_eq (b : Byte) (s : State) : runCksumChar b s = .next (cksumCharStep s b) := by
  have hn := lookup_cksum_none b
  unfold runCksumChar decodeCksumChar
  cases hl : lookupRow cksumCharRows b with
  | none => simp [cksumCharStep, hn hl]
  | some i =>
    have hm := mem_of_lookupRow hl
    simp only [cksumCharRows, List.mem_cons, Prod.mk.injEq, List.not_mem_nil, or_false] at hm
    rcases hm with ⟨rfl, rfl⟩ | hm
    · unfold execMark cksumCharStep
      simp only [Config.markByte, if_true]
      split <;> rfl
    · repeat' rcases hm with ⟨rfl, rfl⟩ | hm
      all_goals first | rfl | (subst_vars; rfl)

/-- The accumulator after one byte, as plain data. -/
def ckStep (c : CksumAcc) (b : Byte) : CksumAcc :=
  if b = Config.markByte then
    if c.pos = 0 then { c with pos := c.pos + 1 } else { c with pos := c.pos + 1, bad := true }
  else
    match hexval b with
    | some d =>
      if c.pos = 0 then { c with pos := c.pos + 1, bad := true }
      else { c with pos := c.pos + 1, value := c.value * 16 + d }
    | none => { c with pos := c.pos + 1, bad := true }

theorem cksumCharStep_eq (s : State) (b : Byte) : cksumCharStep s b = setCk (ckStep s.work.ck b) s := by
  unfold cksumCharStep ckStep cksumDigit cksumIllFormed
  split
  · split <;> rfl
  · split
    · split <;> rfl
    · rfl

theorem foldl_cksumCharStep (t : Token) (s : State) :
    t.foldl cksumCharStep s = setCk (t.foldl ckStep s.work.ck) s := by
  induction t generalizing s with
  | nil => rfl
  | cons b r ih => rw [List.foldl_cons, List.foldl_cons, ih, cksumCharStep_eq]; rfl

theorem ckStep_bad {c : CksumAcc} (h : c.bad = true) (b : Byte) : (ckStep c b).bad = true := by
  unfold ckStep
  split
  · split <;> simp [h]
  · split
    · split <;> simp [h]
    · rfl

theorem foldl_ckStep_bad {c : CksumAcc} (h : c.bad = true) (t : Token) : (t.foldl ckStep c).bad = true := by
  induction t generalizing c with
  | nil => exact h
  | cons b r ih => exact ih (ckStep_bad h b)

theorem hexDigits_cons (v : Nat) (b : Byte) (r : Token) :
    hexDigits v (b :: r) = match hexval b with
      | none => none
      | some d => hexDigits (v * 16 + d) r := rfl

/-- After the mark the loop is `hexDigits`. -/
theorem foldl_ckStep_digits (t : Token) (c : CksumAcc) (hp : c.pos ≠ 0) (hb : c.bad = false) :
    (match hexDigits c.value t with
      | some v => t.foldl ckStep c = { pos := c.pos + t.length, value := v, bad := false }
      | none => (t.foldl ckStep c).bad = true) := by
  induction t generalizing c with
  | nil => cases c; simp_all [hexDigits]
  | cons b r ih =>
    rw [List.foldl_cons, hexDigits_cons]
    cases hv : hexval b with
    | none =>
      have : (ckStep c b).bad = true := by
        unfold ckStep
        by_cases hm : b = Config.markByte
        · simp [hm, hp]
        · simp [hm, hv]
      simpa using foldl_ckStep_bad this r
    | some d =>
      have hm : b ≠ Config.markByte := by
        intro h
        rw [h, hexval_mark] at hv
        cases hv
      have hs : ckStep c b = { c with pos := c.pos + 1, value := c.value * 16 + d } := by
        simp [ckStep, hm, hv, hp]
      rw [hs]
      have := ih { c with pos := c.pos + 1, value := c.value * 16 + d } (by simp) hb
      simp only [List.length_cons] at this ⊢
      rw [show c.pos + (r.length + 1) = c.pos + 1 + r.length by omega]
      exact this

end Sys2Proof.Machine
end

