-- ==== Sys2Proof/Laws/Literal.lean ====
section
/-! SUPPORT. A literal, byte by byte, is the pseudocode of R176 and R178. -/

namespace Sys2Proof.Machine

/-! ## The loop as a fold over plain data -/

def litDigitAcc (d : Nat) (l : LitAcc) : LitAcc :=
  if l.point then { l with pos := l.pos + 1, m := l.m * 10 + d, nfrac := l.nfrac + 1 }
  else { l with pos := l.pos + 1, m := l.m * 10 + d, nint := l.nint + 1 }

def litBadAcc (l : LitAcc) : LitAcc := { l with pos := l.pos + 1, bad := true }

/-- The accumulators after one byte of a value token. -/
def litStep (l : LitAcc) (b : Byte) : LitAcc :=
  match decval b with
  | some d => litDigitAcc d l
  | none =>
    if b = Config.plusByte then if l.pos = 0 then { l with pos := l.pos + 1, neg := false } else litBadAcc l
    else if b = Config.minusByte then
      if l.pos = 0 then { l with pos := l.pos + 1, neg := true } else litBadAcc l
    else if b = Config.pointByte ∧ l.dec = true ∧ l.point = false then
      { l with pos := l.pos + 1, point := true }
    else litBadAcc l

theorem litDigit_eq (d : Nat) (s : State) : litDigit d s = setLit (litDigitAcc d s.work.lit) s := by
  unfold litDigit litDigitAcc
  split <;> rfl

theorem litSign_eq (n : Bool) (s : State) :
    litSign n s = setLit (if s.work.lit.pos = 0 then { s.work.lit with pos := s.work.lit.pos + 1, neg := n }
      else litBadAcc s.work.lit) s := by
  unfold litSign litIllFormed litBadAcc
  split <;> rfl

theorem runValueChar_eq (b : Byte) (s : State) :
    runValueChar b s = .next (setLit (litStep s.work.lit b) s) := by
  have hn := lookup_value_none b
  unfold runValueChar decodeValueChar
  cases hl : lookupRow valueCharRows b with
  | none =>
    obtain ⟨h1, h2, h3, h4⟩ := hn hl
    simp [litStep, h1, h2, h3, h4, litIllFormed, litBadAcc]
  | some i =>
    have hm := mem_of_lookupRow hl
    simp only [valueCharRows, List.mem_cons, Prod.mk.injEq, List.not_mem_nil, or_false] at hm
    iterate 10 rcases hm with ⟨rfl, rfl⟩ | hm; · exact congrArg Host.Outcome.next (litDigit_eq _ s)
    rcases hm with ⟨rfl, rfl⟩ | ⟨rfl, rfl⟩ | ⟨rfl, rfl⟩
    · exact congrArg Host.Outcome.next (litSign_eq false s)
    · exact congrArg Host.Outcome.next (litSign_eq true s)
    · have h := decval_sign.2.2
      simp only [Config.pointByte] at h
      simp only [execPoint, litStep, h, Config.plusByte, Config.minusByte, Config.pointByte, true_and]
      by_cases hd : s.work.lit.dec = true <;> by_cases hp : s.work.lit.point = true <;>
        simp [hd, hp, litIllFormed, litBadAcc]

theorem forBytes_runValueChar (t : Token) (s : State) :
    forBytes runValueChar t s = .next (setLit (t.foldl litStep s.work.lit) s) := by
  induction t generalizing s with
  | nil => rfl
  | cons b r ih =>
    show andThen (runValueChar b s) (forBytes runValueChar r) = _
    rw [runValueChar_eq, andThen_next, ih]
    rfl

/-- A value token leaves its accumulators and nothing else. -/
theorem runLiteral_eq (dec : Bool) (value : Token) (s : State) :
    runLiteral dec value s = .next (setLit (value.foldl litStep { dec := dec }) s) := by
  unfold runLiteral
  rw [forBytes_runValueChar]
  rfl

/-! ## The fold against the pseudocode -/

theorem litStep_bad {l : LitAcc} (h : l.bad = true) (b : Byte) : (litStep l b).bad = true := by
  unfold litStep litDigitAcc litBadAcc
  repeat' split
  all_goals simp_all

theorem foldl_litStep_bad {l : LitAcc} (h : l.bad = true) (t : Token) : (t.foldl litStep l).bad = true := by
  induction t generalizing l with
  | nil => exact h
  | cons b r ih => exact ih (litStep_bad h b)

/-- Past byte 0, a byte that is no digit makes an integer literal ill-formed. -/
theorem litStep_int_none {l : LitAcc} (hd : l.dec = false) (hp : l.pos ≠ 0) {b : Byte}
    (hb : decval b = none) : (litStep l b).bad = true := by
  simp [litStep, hb, hd, hp, litBadAcc]

theorem foldl_litStep_int (t : Token) (l : LitAcc) (hd : l.dec = false) (hp : l.pos ≠ 0 ∨ takeSign t = (false, t))
    (hb : l.bad = false) (hpt : l.point = false) :
    (match decDigits l.m t with
      | some m => t.foldl litStep l = { l with pos := l.pos + t.length, m := m, nint := l.nint + t.length }
      | none => (t.foldl litStep l).bad = true) := by
  induction t generalizing l with
  | nil => simp [decDigits]
  | cons b r ih =>
    rw [List.foldl_cons]
    simp only [decDigits]
    cases hv : decval b with
    | none =>
      have : (litStep l b).bad = true := by
        rcases hp with hp | hp
        · exact litStep_int_none hd hp hv
        · simp only [takeSign] at hp
          have h1 : b ≠ Config.plusByte := by
            intro h
            rw [if_pos h] at hp
            simp at hp
          have h2 : b ≠ Config.minusByte := by
            intro h
            rw [if_neg h1, if_pos h] at hp
            simp at hp
          simp [litStep, hv, h1, h2, hd, litBadAcc]
      simpa using foldl_litStep_bad this r
    | some d =>
      have hs : litStep l b = { l with pos := l.pos + 1, m := l.m * 10 + d, nint := l.nint + 1 } := by
        simp [litStep, hv, litDigitAcc, hpt]
      rw [hs]
      have := ih { l with pos := l.pos + 1, m := l.m * 10 + d, nint := l.nint + 1 } hd (by simp) hb hpt
      simp only [List.length_cons] at this ⊢
      rw [show l.pos + (r.length + 1) = l.pos + 1 + r.length by omega,
        show l.nint + (r.length + 1) = l.nint + 1 + r.length by omega]
      exact this

/-- The loop of R178 after an optional sign. -/
theorem foldl_litStep_dec (t : Token) (l : LitAcc) (hd : l.dec = true) (hp : l.pos ≠ 0 ∨ takeSign t = (false, t))
    (hb : l.bad = false) :
    (match decLoop l.m l.nint l.nfrac l.point t with
      | some (m, nint, nfrac, point) => t.foldl litStep l
          = { l with pos := l.pos + t.length, m := m, nint := nint, nfrac := nfrac, point := point }
      | none => (t.foldl litStep l).bad = true) := by
  induction t generalizing l with
  | nil => simp [decLoop]
  | cons b r ih =>
    rw [List.foldl_cons]
    simp only [decLoop]
    cases hv : decval b with
    | none =>
      have h12 : (b = Config.plusByte ∨ b = Config.minusByte) → l.pos ≠ 0 := by
        intro h
        rcases hp with hp | hp
        · exact hp
        · simp only [takeSign] at hp
          rcases h with h | h
          · rw [if_pos h] at hp
            simp at hp
          · by_cases h1 : b = Config.plusByte
            · rw [if_pos h1] at hp
              simp at hp
            · rw [if_neg h1, if_pos h] at hp
              simp at hp
      by_cases hpt : b = Config.pointByte ∧ l.point = false
      · have h1 : b ≠ Config.plusByte := by rw [hpt.1]; decide
        have h2 : b ≠ Config.minusByte := by rw [hpt.1]; decide
        have hs : litStep l b = { l with pos := l.pos + 1, point := true } := by
          unfold litStep
          simp only [hv, if_neg h1, if_neg h2]
          exact if_pos ⟨hpt.1, hd, hpt.2⟩
        rw [hs, if_pos hpt]
        have := ih { l with pos := l.pos + 1, point := true } hd (by simp) hb
        simp only [List.length_cons] at this ⊢
        rw [show l.pos + (r.length + 1) = l.pos + 1 + r.length by omega]
        exact this
      · have : (litStep l b).bad = true := by
          simp only [litStep, hv]
          split
          · next h => rw [if_neg (h12 (.inl h))]; rfl
          · split
            · next h => rw [if_neg (h12 (.inr h))]; rfl
            · rw [if_neg (by tauto)]; rfl
        rw [if_neg hpt]
        simpa using foldl_litStep_bad this r
    | some d =>
      simp only
      cases hpt : l.point with
      | false =>
        have hs : litStep l b = { l with pos := l.pos + 1, m := l.m * 10 + d, nint := l.nint + 1 } := by
          simp [litStep, hv, litDigitAcc, hpt]
        rw [hs]
        have := ih { l with pos := l.pos + 1, m := l.m * 10 + d, nint := l.nint + 1 } hd (by simp) hb
        simp only [List.length_cons, hpt] at this ⊢
        rw [show l.pos + (r.length + 1) = l.pos + 1 + r.length by omega]
        exact this
      | true =>
        have hs : litStep l b = { l with pos := l.pos + 1, m := l.m * 10 + d, nfrac := l.nfrac + 1 } := by
          simp [litStep, hv, litDigitAcc, hpt]
        rw [hs]
        have := ih { l with pos := l.pos + 1, m := l.m * 10 + d, nfrac := l.nfrac + 1 } hd (by simp) hb
        simp only [List.length_cons, hpt] at this ⊢
        rw [show l.pos + (r.length + 1) = l.pos + 1 + r.length by omega]
        exact this

/-- The optional sign is byte 0. -/
theorem foldl_litStep_sign (value : Token) (d : Bool) :
    ∃ p, (p ≠ 0 ∨ takeSign (takeSign value).2 = (false, (takeSign value).2)) ∧
      value.foldl litStep { dec := d }
        = (takeSign value).2.foldl litStep { dec := d, pos := p, neg := (takeSign value).1 } := by
  cases value with
  | nil => exact ⟨0, .inr rfl, rfl⟩
  | cons b r =>
    by_cases h1 : b = Config.plusByte
    · refine ⟨1, .inl (by decide), ?_⟩
      simp [takeSign, h1, litStep, decval_sign]
    · by_cases h2 : b = Config.minusByte
      · refine ⟨1, .inl (by decide), ?_⟩
        have h3 : Config.minusByte ≠ Config.plusByte := by decide
        simp [takeSign, h2, h3, litStep, decval_sign]
      · refine ⟨0, .inr ?_, ?_⟩ <;> simp [takeSign, h1, h2]

/-- The accumulators of an integer literal hold what `parse_int` computes. -/
theorem intValue_eq_parseInt (value : Token) :
    (value.foldl litStep { dec := false }).intValue = parseInt value := by
  obtain ⟨p, hp, he⟩ := foldl_litStep_sign value false
  rw [he]
  have hf := foldl_litStep_int (takeSign value).2 { dec := false, pos := p, neg := (takeSign value).1 }
    rfl hp rfl rfl
  unfold parseInt
  generalize takeSign value = q at hf
  obtain ⟨neg, ds⟩ := q
  simp only at hf ⊢
  cases ds with
  | nil => simp [LitAcc.intValue]
  | cons b r =>
    simp only
    cases hd : decDigits 0 (b :: r) with
    | none =>
      rw [hd] at hf
      simp only at hf
      unfold LitAcc.intValue
      rw [hf]
      rfl
    | some m =>
      rw [hd] at hf
      simp only at hf
      rw [hf]
      simp [LitAcc.intValue, LitAcc.signed, applySign]

/-- The accumulators of a decimal literal hold what `parse_dec` computes. -/
theorem decValue_eq_parseDec (value : Token) :
    (value.foldl litStep { dec := true }).decValue = parseDec value := by
  obtain ⟨p, hp, he⟩ := foldl_litStep_sign value true
  rw [he]
  have hf := foldl_litStep_dec (takeSign value).2 { dec := true, pos := p, neg := (takeSign value).1 }
    rfl hp rfl
  unfold parseDec
  simp only at hf
  cases hd : decLoop 0 0 0 false (takeSign value).2 with
  | none =>
    rw [hd] at hf
    simp only at hf
    simp [LitAcc.decValue, hf]
  | some q =>
    obtain ⟨m, nint, nfrac, point⟩ := q
    rw [hd] at hf
    simp only at hf
    rw [hf]
    simp only [LitAcc.decValue, LitAcc.signed, applySign, Bool.false_or]
    by_cases h1 : nint = 0
    · simp [h1]
    · by_cases h2 : point = true ∧ nfrac = 0
      · simp [h1, h2]
      · have : (nint == 0 || (point && nfrac == 0)) = false := by
          simp only [Bool.or_eq_false_iff, beq_eq_false_iff_ne, Bool.and_eq_false_iff]
          exact ⟨h1, by by_contra h; simp at h; exact h2 h⟩
        simp [h1, h2, this]

end Sys2Proof.Machine
end

