-- ==== Sys2Proof/Laws/Field.lean ====
section
/-! SUPPORT. One pair, and the pairs in frame order, are the pseudocode of R170. -/

namespace Sys2Proof.Machine

theorem attachInt_eq (l : LitAcc) (s : State) :
    attachInt (setLit l s) = match l.intValue with
      | some r => setUpdate (s.work.update.setPressure r) (endLiteral s)
      | none => raise .malformed (endLiteral s) := rfl

theorem attachDec_eq (c : DecChannel) (l : LitAcc) (s : State) :
    attachDec c (setLit l s) = match l.decValue with
      | some r => setUpdate (s.work.update.setDec c r) (endLiteral s)
      | none => raise .malformed (endLiteral s) := rfl

/-- What a conversion leaves: the update with the value in it, or the rejection. -/
def attached (u : Option Update) (s : State) : State :=
  match u with
  | some u => setUpdate u (endLiteral s)
  | none => raise .malformed (endLiteral s)

theorem convertDec_eq (c : DecChannel) (value : Token) (s : State) :
    convertDec c value s = .next (attached ((parseDec value).map (s.work.update.setDec c)) s) := by
  unfold convertDec
  rw [runLiteral_eq, andThen_next, attachDec_eq, decValue_eq_parseDec]
  cases parseDec value <;> rfl

theorem convertInt_eq (value : Token) (s : State) :
    execUnitPa value s = .next (attached ((parseInt value).map s.work.update.setPressure) s) := by
  unfold execUnitPa
  rw [runLiteral_eq, andThen_next, attachInt_eq, intValue_eq_parseInt]
  cases parseInt value <;> rfl

/-- A pair leaves what R170 computes; one with an unknown unit leaves the state alone. -/
theorem runPair_eq (value unit : Token) (s : State) :
    runPair value unit s = .next
      (if isUnitLabel unit then attached (fieldUpdate value unit s.work.update) s else s) := by
  unfold runPair decodePair fieldUpdate
  by_cases h1 : unit = Config.labelPa
  · subst h1
    simp [convertInt_eq, isUnitLabel]
  · by_cases h2 : unit = Config.labelC
    · subst h2
      simp [h1, execUnitC, convertDec_eq, isUnitLabel]
    · by_cases h3 : unit = Config.labelRh
      · subst h3
        simp [h1, h2, execUnitRh, convertDec_eq, isUnitLabel]
      · by_cases h4 : unit = Config.labelPpm
        · subst h4
          simp [h1, h2, h3, execUnitPpm, convertDec_eq, isUnitLabel]
        · simp [h1, h2, h3, h4, isUnitLabel, execUnitOther]

theorem fieldUpdate_other {value unit : Token} (h : isUnitLabel unit = false) (u : Update) :
    fieldUpdate value unit u = some u := by
  simp only [isUnitLabel, Bool.or_eq_false_iff, beq_eq_false_iff_ne] at h
  obtain ⟨⟨⟨h1, h2⟩, h3⟩, h4⟩ := h
  simp [fieldUpdate, h1, h2, h3, h4]

/-- The pairs of an undecided line: afterwards either the line is rejected as `decodePairs` rejects
it, or it is undecided with the update `decodePairs` accepts. Nothing but the intermediate values
changes. -/
theorem runPairs_eq (ps : List (Token × Token)) (s : State) (h : s.work.verdict = none) :
    ∃ w : Work, runPairs ps s = .next (s.setWork w) ∧ w.tokens = s.work.tokens ∧ w.cur = s.work.cur ∧
      w.ck = s.work.ck ∧ w.parsed = s.work.parsed ∧ (w.lit = s.work.lit ∨ w.lit = {}) ∧
      (match decodePairs s.work.update ps with
        | .accept u => w.verdict = none ∧ w.update = u
        | r => w.verdict = r.event ∧ w.update = {}) := by
  induction ps generalizing s with
  | nil => exact ⟨s.work, by simp [runPairs], by simp [decodePairs, h]⟩
  | cons q r ih =>
    obtain ⟨value, unit⟩ := q
    simp only [runPairs, runPair_eq, andThen_next]
    by_cases hu : isUnitLabel unit = true
    · simp only [hu, if_true]
      cases hf : fieldUpdate value unit s.work.update with
      | none =>
        refine ⟨(attached none s).work, ?_, rfl, rfl, rfl, rfl, .inr rfl, ?_⟩
        · rw [unlessDecided_of_decided (by rfl)]; rfl
        · simp only [decodePairs, hf]
          exact ⟨rfl, rfl⟩
      | some u =>
        rw [unlessDecided_of_open (by simp [attached, State.decided, endLiteral, h])]
        obtain ⟨w, h1, h2, h3, h4, h5, h6, h7⟩ := ih (attached (some u) s) (by simp [attached, endLiteral, h])
        refine ⟨w, by rw [h1]; rfl, h2, h3, h4, h5, ?_, ?_⟩
        · rcases h6 with h6 | h6
          · exact .inr h6
          · exact .inr h6
        · simp only [decodePairs, hf]
          exact h7
    · have hu' : isUnitLabel unit = false := by simpa using hu
      simp only [hu', Bool.false_eq_true, if_false]
      rw [unlessDecided_of_open (by simp [State.decided, h])]
      obtain ⟨w, h1, h2⟩ := ih s h
      refine ⟨w, h1, ?_⟩
      simpa only [decodePairs, fieldUpdate_other hu'] using h2

end Sys2Proof.Machine
end

