-- ==== Sys2Proof/Laws/Split.lean ====
section
/-! SUPPORT. The loop of the split, character by character, is the fold of R142's pseudocode. -/

namespace Sys2Proof.Machine

/-- What one byte of a completed line does. -/
def lineCharStep (s : State) (b : Byte) : State :=
  if b = Config.delimByte then endToken s else pushTokenByte b s

theorem runLineChar_eq (b : Byte) (s : State) : runLineChar b s = .next (lineCharStep s b) := by
  unfold runLineChar decodeLineChar lineCharStep
  split <;> simp_all [execDelim]

/-- The bytes of a line accumulate tokens as `splitStep` does. -/
theorem foldl_lineCharStep (t : Token) (s : State) :
    t.foldl lineCharStep s = s.setWork { s.work with
      tokens := (t.foldl splitStep (s.work.tokens, s.work.cur)).1
      cur := (t.foldl splitStep (s.work.tokens, s.work.cur)).2 } := by
  induction t generalizing s with
  | nil => rfl
  | cons b r ih =>
    rw [List.foldl_cons, List.foldl_cons, ih]
    unfold lineCharStep splitStep
    split <;> rfl

/-- The split of a line leaves its tokens and nothing else. -/
theorem runSplit_eq (s : State) :
    runSplit s = .next (s.setWork { s.work with tokens := split s.line, cur := [] }) := by
  unfold runSplit
  rw [forBytes_eq_foldl runLineChar_eq, foldl_lineCharStep]
  rfl

end Sys2Proof.Machine
end

