-- ==== Sys2Proof/Laws/Frame.lean ====
section
/-! SUPPORT. What the frame-level operations and the checks in their order leave. -/

namespace Sys2Proof.Machine

/-! ## The checksum token -/

/-- After `CKSUM` the accumulator is idle and the line has its parsed checksum or is rejected. -/
theorem endCksum_setCk (c : CksumAcc) (s : State) :
    endCksum (setCk c s) = if c.bad || decide (c.pos < 2) then raise .malformed (setCk {} s)
      else s.setWork { s.work with ck := {}, parsed := c.value } := rfl

/-- What `parse_cksum` answers is what the loop over the bytes of the token leaves. -/
theorem endCksum_foldl (t : Token) (s : State) :
    endCksum (setCk ((Config.markByte :: t).foldl ckStep {}) s)
      = match parseCksum (Config.markByte :: t) with
        | some v => s.setWork { s.work with ck := {}, parsed := v }
        | none => raise .malformed (setCk {} s) := by
  have hs : ckStep {} Config.markByte = { pos := 1, value := 0, bad := false } := rfl
  rw [endCksum_setCk, List.foldl_cons, hs]
  have hf := foldl_ckStep_digits t { pos := 1, value := 0, bad := false } (by decide) rfl
  simp only [parseCksum, if_true]
  cases t with
  | nil => rfl
  | cons b r =>
    simp only at hf ⊢
    cases hd : hexDigits 0 (b :: r) with
    | none =>
      rw [hd] at hf
      simp only at hf
      simp only [hf, Bool.true_or, if_true]
      rfl
    | some v =>
      rw [hd] at hf
      simp only at hf
      simp [hf]

/-! ## Selection -/

theorem decodeToken0_typeD : decodeToken0 Config.typeD = .frameD := by simp [decodeToken0]

theorem runFrameType_d {s : State} (h : tokenAt s.work.tokens 0 = Config.typeD) :
    runFrameType s = execFrameD s := by simp [runFrameType, h, decodeToken0_typeD]

theorem runFrameType_other {s : State} (h : tokenAt s.work.tokens 0 ≠ Config.typeD) :
    runFrameType s = .next (raise .unsupportedFrameType s) := by
  simp [runFrameType, decodeToken0, h, execFrameOther]

theorem parseCksum_of_noMark {t : Token} (h : decodeLastToken t = .error .noMark) : parseCksum t = none := by
  cases t with
  | nil => rfl
  | cons b r =>
    simp only [decodeLastToken] at h
    split at h
    · cases h
    · next hb => simp [parseCksum, hb]

/-- The last token begins with the mark, or it is no checksum token. -/
theorem decodeLastToken_cases (t : Token) :
    (∃ d, t = Config.markByte :: d ∧ decodeLastToken t = .ok (.cksum d))
      ∨ decodeLastToken t = .error .noMark := by
  cases t with
  | nil => exact .inr rfl
  | cons b r =>
    by_cases hb : b = Config.markByte
    · exact .inl ⟨r, by rw [hb], by simp [decodeLastToken, hb]⟩
    · exact .inr (by simp [decodeLastToken, hb])

@[simp] theorem raise_decided (k : RejectKind) (s : State) : (raise k s).decided = true := rfl

end Sys2Proof.Machine
end

