-- ==== Sys2Proof/Laws/PerInstr.lean ====
section
/-! SUPPORT. Facts about every operation as syntax, one lemma per row of the table. -/

namespace Sys2Proof.Laws.WordsClean

/-- R60, R123: the bytes of an operation hold no terminator, but for the two terminators themselves: "A
terminator byte cannot occur inside a line". -/
def Statement (i : Instr) : Prop :=
  i.wf = true → i = .lf ∨ i = .cr ∨ (encode i).all (fun b => !(isTerminator b)) = true

theorem clean_of_isToken {t : Token} (h : isToken t = true) :
    t.all (fun b => !(isTerminator b)) = true := by
  simp only [isToken, List.all_eq_true, isTokenByte, Bool.and_eq_true] at h ⊢
  exact fun b hb => (h b hb).1

/-- A value token, the delimiter and a unit token. -/
theorem clean_pair {value unit : Token} (hv : isToken value = true)
    (hu : unit.all (fun b => !(isTerminator b)) = true) :
    (value ++ Config.delimByte :: unit).all (fun b => !(isTerminator b)) = true := by
  simp only [List.all_append, List.all_cons, clean_of_isToken hv, hu]
  decide

theorem lf : Statement .lf := fun _ => .inl rfl
theorem cr : Statement .cr := fun _ => .inr (.inl rfl)
theorem data (b : Byte) : Statement (.data b) := fun h =>
  .inr (.inr (by simpa [encode, Instr.wf] using h))
theorem cksum (digits : Token) : Statement (.cksum digits) := fun h =>
  .inr (.inr (by simp only [encode, List.all_cons, clean_of_isToken h]; decide))
theorem idCheck (product serial : Token) : Statement (.idCheck product serial) := fun h =>
  .inr (.inr (clean_pair (Bool.and_eq_true_iff.mp h).1
    (clean_of_isToken (Bool.and_eq_true_iff.mp h).2)))
theorem frameOther (lineType : Token) : Statement (.frameOther lineType) := fun h =>
  .inr (.inr (clean_of_isToken (Bool.and_eq_true_iff.mp h).1))
theorem unitPa (value : Token) : Statement (.unitPa value) := fun h =>
  .inr (.inr (clean_pair h (by decide)))
theorem unitC (value : Token) : Statement (.unitC value) := fun h =>
  .inr (.inr (clean_pair h (by decide)))
theorem unitRh (value : Token) : Statement (.unitRh value) := fun h =>
  .inr (.inr (clean_pair h (by decide)))
theorem unitPpm (value : Token) : Statement (.unitPpm value) := fun h =>
  .inr (.inr (clean_pair h (by decide)))
theorem unitOther (value unit : Token) : Statement (.unitOther value unit) := fun h => by
  simp only [Instr.wf, Bool.and_eq_true] at h
  exact .inr (.inr (clean_pair h.1.1 (clean_of_isToken h.1.2)))
theorem delim : Statement .delim := fun _ => .inr (.inr (by decide))
theorem mark : Statement .mark := fun _ => .inr (.inr (by decide))
theorem hex0 : Statement .hex0 := fun _ => .inr (.inr (by decide))
theorem hex1 : Statement .hex1 := fun _ => .inr (.inr (by decide))
theorem hex2 : Statement .hex2 := fun _ => .inr (.inr (by decide))
theorem hex3 : Statement .hex3 := fun _ => .inr (.inr (by decide))
theorem hex4 : Statement .hex4 := fun _ => .inr (.inr (by decide))
theorem hex5 : Statement .hex5 := fun _ => .inr (.inr (by decide))
theorem hex6 : Statement .hex6 := fun _ => .inr (.inr (by decide))
theorem hex7 : Statement .hex7 := fun _ => .inr (.inr (by decide))
theorem hex8 : Statement .hex8 := fun _ => .inr (.inr (by decide))
theorem hex9 : Statement .hex9 := fun _ => .inr (.inr (by decide))
theorem hexA : Statement .hexA := fun _ => .inr (.inr (by decide))
theorem hexB : Statement .hexB := fun _ => .inr (.inr (by decide))
theorem hexC : Statement .hexC := fun _ => .inr (.inr (by decide))
theorem hexD : Statement .hexD := fun _ => .inr (.inr (by decide))
theorem hexE : Statement .hexE := fun _ => .inr (.inr (by decide))
theorem hexF : Statement .hexF := fun _ => .inr (.inr (by decide))
theorem hexALower : Statement .hexALower := fun _ => .inr (.inr (by decide))
theorem hexBLower : Statement .hexBLower := fun _ => .inr (.inr (by decide))
theorem hexCLower : Statement .hexCLower := fun _ => .inr (.inr (by decide))
theorem hexDLower : Statement .hexDLower := fun _ => .inr (.inr (by decide))
theorem hexELower : Statement .hexELower := fun _ => .inr (.inr (by decide))
theorem hexFLower : Statement .hexFLower := fun _ => .inr (.inr (by decide))
theorem dec0 : Statement .dec0 := fun _ => .inr (.inr (by decide))
theorem dec1 : Statement .dec1 := fun _ => .inr (.inr (by decide))
theorem dec2 : Statement .dec2 := fun _ => .inr (.inr (by decide))
theorem dec3 : Statement .dec3 := fun _ => .inr (.inr (by decide))
theorem dec4 : Statement .dec4 := fun _ => .inr (.inr (by decide))
theorem dec5 : Statement .dec5 := fun _ => .inr (.inr (by decide))
theorem dec6 : Statement .dec6 := fun _ => .inr (.inr (by decide))
theorem dec7 : Statement .dec7 := fun _ => .inr (.inr (by decide))
theorem dec8 : Statement .dec8 := fun _ => .inr (.inr (by decide))
theorem dec9 : Statement .dec9 := fun _ => .inr (.inr (by decide))
theorem plus : Statement .plus := fun _ => .inr (.inr (by decide))
theorem minus : Statement .minus := fun _ => .inr (.inr (by decide))
theorem point : Statement .point := fun _ => .inr (.inr (by decide))
theorem frameOverlong : Statement .frameOverlong := fun _ => .inr (.inr (by decide))
theorem frameEmpty : Statement .frameEmpty := fun _ => .inr (.inr (by decide))
theorem frameShort : Statement .frameShort := fun _ => .inr (.inr (by decide))
theorem crcCheck : Statement .crcCheck := fun _ => .inr (.inr (by decide))
theorem frameD : Statement .frameD := fun _ => .inr (.inr (by decide))

end Sys2Proof.Laws.WordsClean
end

