-- ==== Sys2Proof/Tests/Slice0.lean ====
section
/-! SUPPORT. Tests: expected values are those of spec/95_test_vectors.md (named by their ids) and of the
examples inside the rules; and, for each obligation with hypotheses, a witness that meets them. -/

namespace Sys2Proof.Tests

set_option Elab.async false

open Sys2Proof Sys2Proof.Machine

/-! ## Helpers -/

/-- The bytes of a text. -/
def asc (s : String) : Token := s.toList.map fun c => BitVec.ofNat 8 c.toNat

/-- The state after reset with this line in the buffer. -/
def holding (line : Token) : State := placeLine line State.reset

/-- An expected identity of these bytes. -/
def expecting (t : Token) : IdRegs :=
  { en := true, len := BitVec.ofNat 6 t.length,
    bytes := ⟨((List.range 32).map fun i => t.getD i 0#8).toArray, by simp⟩ }

def withProduct (t : Token) (s : State) : State := { s with cfgProd := expecting t }

def withSerial (t : Token) (s : State) : State := { s with cfgSer := expecting t }

def isNext (r : Result) : Bool :=
  match r with
  | .next _ => true
  | _ => false

def nextOf (r : Result) : State :=
  match r with
  | .next s => s
  | _ => State.reset

theorem eq_next {r : Result} (h : isNext r = true) : r = .next (nextOf r) := by
  cases r <;> simp_all [isNext, nextOf]

def workOf (r : Result) : Work := (nextOf r).work

/-- What a terminator emits for this line, no identity being expected. -/
def emitted (line : Token) : List Event := (nextOf (exec .cr (holding line))).events

def accepts (pa : Option Int) (c rh co2 : Option (Int × Nat)) : Event :=
  .accept
    { pressure := pa
      temperature := c.map fun d => { sig := d.1, scale := d.2 }
      humidity := rh.map fun d => { sig := d.1, scale := d.2 }
      co2 := co2.map fun d => { sig := d.1, scale := d.2 } }

/-- The frame of vector S3b. -/
def frameL : Token := asc "D,PTH420,12345,MSG,101325,Pa,23.45,C,,*C1AB"

/-- The smallest frame, vector V4. -/
def frameM : Token := asc "D,P,S,M,,*0790"

/-! ## Well-formedness: an ill-formed term for each check -/

theorem test_wf_data_lf : (Instr.data 0x0A#8).wf = false := by decide +kernel
theorem test_wf_data_cr : (Instr.data 0x0D#8).wf = false := by decide +kernel
theorem test_wf_data_comma : (Instr.data 0x2C#8).wf = true := by decide +kernel
theorem test_wf_cksum_comma : (Instr.cksum [0x2C#8]).wf = false := by decide +kernel
theorem test_wf_id_product : (Instr.idCheck [0x0D#8] []).wf = false := by decide +kernel
theorem test_wf_id_serial : (Instr.idCheck [] [0x0A#8]).wf = false := by decide +kernel
theorem test_wf_other_d : (Instr.frameOther [0x44#8]).wf = false := by decide +kernel
theorem test_wf_other_comma : (Instr.frameOther [0x44#8, 0x2C#8]).wf = false := by decide +kernel
theorem test_wf_pa_comma : (Instr.unitPa [0x31#8, 0x2C#8]).wf = false := by decide +kernel
theorem test_wf_c_lf : (Instr.unitC [0x0A#8]).wf = false := by decide +kernel
theorem test_wf_rh_cr : (Instr.unitRh [0x0D#8]).wf = false := by decide +kernel
theorem test_wf_ppm_comma : (Instr.unitPpm [0x2C#8]).wf = false := by decide +kernel
theorem test_wf_unit_label : (Instr.unitOther [] [0x25#8]).wf = false := by decide +kernel
theorem test_wf_unit_comma : (Instr.unitOther [] [0x2C#8]).wf = false := by decide +kernel
theorem test_wf_unit_value : (Instr.unitOther [0x2C#8] [0x70#8]).wf = false := by decide +kernel

/-! ## Decoding: words written out from the encodings of R62 to R72 and R82 -/

theorem test_decode_byte_level : decodeByte 0b00001010#8 = .lf ∧ decodeByte 0b00001101#8 = .cr
    ∧ decodeByte 0b00101100#8 = .data 0x2C#8 ∧ decodeByte 0xFF#8 = .data 0xFF#8 := by decide +kernel
theorem test_decode_delim : decode .lineChar [0b00101100#8] = .ok .delim
    ∧ decode .lineChar [0x41#8] = .error .ordinaryTokenByte := by decide +kernel
theorem test_decode_mark : decode .cksumChar [0b00101010#8] = .ok .mark := by decide +kernel
theorem test_decode_hex : ([0x30#8, 0x31#8, 0x32#8, 0x33#8, 0x34#8, 0x35#8, 0x36#8, 0x37#8, 0x38#8,
    0x39#8, 0x41#8, 0x42#8, 0x43#8, 0x44#8, 0x45#8, 0x46#8, 0x61#8, 0x62#8, 0x63#8, 0x64#8, 0x65#8,
    0x66#8].map fun b => (decode .cksumChar [b]).toOption)
    = [.hex0, .hex1, .hex2, .hex3, .hex4, .hex5, .hex6, .hex7, .hex8, .hex9, .hexA, .hexB, .hexC,
      .hexD, .hexE, .hexF, .hexALower, .hexBLower, .hexCLower, .hexDLower, .hexELower,
      .hexFLower].map some := by decide +kernel
theorem test_decode_hex_bounds :
    [0x2F#8, 0x3A#8, 0x40#8, 0x47#8, 0x60#8, 0x67#8].map hexval = List.replicate 6 none := by decide +kernel
theorem test_decode_not_hex : decode .cksumChar [0x47#8] = .error .notChecksumChar := by decide +kernel
theorem test_decode_dec : ([0x30#8, 0x31#8, 0x32#8, 0x33#8, 0x34#8, 0x35#8, 0x36#8, 0x37#8, 0x38#8,
    0x39#8, 0x2B#8, 0x2D#8, 0x2E#8].map fun b => (decode .valueChar [b]).toOption)
    = [.dec0, .dec1, .dec2, .dec3, .dec4, .dec5, .dec6, .dec7, .dec8, .dec9, .plus, .minus,
      .point].map some := by decide +kernel
theorem test_decode_not_dec : decode .valueChar [0x65#8] = .error .notLiteralChar
    ∧ decode .valueChar [0x2A#8] = .error .notLiteralChar := by decide +kernel
theorem test_decode_cksum : decode .lastToken [0x2A#8, 0x31#8, 0x46#8] = .ok (.cksum [0x31#8, 0x46#8])
    ∧ decode .lastToken [0x31#8] = .error .noMark ∧ decode .lastToken [] = .error .noMark := by decide +kernel
theorem test_decode_type : decode .token0 [0x44#8] = .ok .frameD
    ∧ decode .token0 [0x64#8] = .ok (.frameOther [0x64#8])
    ∧ decode .token0 [0x44#8, 0x44#8] = .ok (.frameOther [0x44#8, 0x44#8])
    ∧ decode .token0 [] = .ok (.frameOther []) := by decide +kernel
theorem test_decode_id : decode .idTokens [0x41#8, 0x2C#8] = .ok (.idCheck [0x41#8] [])
    ∧ decode .idTokens [0x41#8] = .error .notTwoTokens := by decide +kernel
theorem test_decode_units :
    decode .pair [0x31#8, 0x2C#8, 0x50#8, 0x61#8] = .ok (.unitPa [0x31#8])
    ∧ decode .pair [0x31#8, 0x2C#8, 0x43#8] = .ok (.unitC [0x31#8])
    ∧ decode .pair [0x31#8, 0x2C#8, 0x25#8] = .ok (.unitRh [0x31#8])
    ∧ decode .pair [0x31#8, 0x2C#8, 0x70#8, 0x70#8, 0x6D#8] = .ok (.unitPpm [0x31#8])
    ∧ decode .pair [0x31#8, 0x2C#8, 0x63#8] = .ok (.unitOther [0x31#8] [0x63#8]) := by decide +kernel
theorem test_decode_condition : decode .condition [] = .error .noBytePattern := by decide +kernel

/-! ### Words of the opcode table -/

theorem test_table_words : decodeTableWord 8 0x0A = some .lf ∧ decodeTableWord 8 0x00 = some (.data 0#8)
    ∧ decodeTableWord 8 0x2C = some .delim ∧ decodeTableWord 8 0x2A = some .mark
    ∧ decodeTableWord 8 0x66 = some .hexFLower ∧ decodeTableWord 8 0x2E = some .point
    ∧ decodeTableWord 8 0x44 = some .frameD ∧ decodeTableWord 16 0x5061 = some (.unitPa [])
    ∧ decodeTableWord 24 0x70706D = some (.unitPpm []) := by decide +kernel
theorem test_fetch_data : (nextOf (step (State.reset.withFetchWord 8 0x7E))).line = [0x7E#8] := by
  decide +kernel
theorem test_fetch_mark : (nextOf (step (State.reset.withFetchWord 8 0x2A))).events
    = [.reject .malformed] := by decide +kernel
theorem test_fetch_frame_d : (nextOf (step (State.reset.withFetchWord 8 0x44))).events
    = [accepts none none none none] := by decide +kernel
/-- The pair's value token is empty, which is no integer literal (R71). -/
theorem test_fetch_unit_pa : (nextOf (step (State.reset.withFetchWord 16 0x5061))).events
    = [.reject .malformed] := by decide +kernel

/-! ## The CRC (vectors K1 to K26) -/

theorem test_crc_bit : crcBit 0x0000#16 false = 0x0000#16 ∧ crcBit 0x0000#16 true = 0x1021#16
    ∧ crcBit 0x8000#16 false = 0x1021#16 ∧ crcBit 0x8000#16 true = 0x0000#16
    ∧ crcBit 0xFFFF#16 false = 0xEFDF#16 := by decide +kernel
theorem test_crc_byte : crcByte 0x0000#16 0x01#8 = 0x1021#16 ∧ crcByte 0x0000#16 0x80#8 = 0x9188#16
    ∧ crcByte 0x0000#16 0xFF#8 = 0x1EF0#16 ∧ crcByte 0x0000#16 0x41#8 = 0x58E5#16
    ∧ crcByte 0x0840#16 0x2C#8 = 0x24E6#16 := by decide +kernel
theorem test_crc_check_value : crc16 (asc "123456789") = 0x31C3#16 := by decide +kernel
theorem test_crc_body : crc16 (asc "D,PTH420,12345,MSG,101325,Pa,23.45,C,,") = 0xC1AB#16 := by
  decide +kernel
/-- Rows 2 and 33 of the table of R103. -/
theorem test_crc_table : crcTable 8#8 = 0x8108#16 ∧ crcTable 255#8 = 0x1EF0#16 := by decide +kernel

/-! ## The line parser (R121, R122; vectors P1v to P17v) -/

/-- The example of R121. -/
theorem test_data_stores : (nextOf (exec (.data 0x2C#8) (holding [0x44#8]))).len = 2#8
    ∧ (nextOf (exec (.data 0x2C#8) (holding [0x44#8]))).line = [0x44#8, 0x2C#8] := by decide +kernel
/-- P10v and P11v: the 255th byte is stored, the 256th is discarded. -/
theorem test_data_last_and_over :
    (nextOf (exec (.data 0x41#8) (holding (List.replicate 254 0x41#8)))).len = 255#8
    ∧ (nextOf (exec (.data 0x41#8) (holding (List.replicate 254 0x41#8)))).ovf = false
    ∧ (nextOf (exec (.data 0x41#8) (holding (List.replicate 255 0x41#8)))).ovf = true
    ∧ (nextOf (exec (.data 0x41#8) (holding (List.replicate 255 0x41#8)))).len = 255#8 := by
  decide +kernel
/-- S3b: the event and its ports. -/
theorem test_cr_frame :
    emitted frameL = [accepts (some 101325) (some (2345, 2)) none none]
    ∧ (nextOf (exec .cr (holding frameL))).out.status = 0#3
    ∧ (nextOf (exec .cr (holding frameL))).out.present = 0b0011#4
    ∧ (nextOf (exec .cr (holding frameL))).out.pa = 0x00018BCD#32
    ∧ (nextOf (exec .cr (holding frameL))).out.cSig = 0x00000929#32
    ∧ (nextOf (exec .cr (holding frameL))).out.cScale = 0x02#8
    ∧ (nextOf (exec .cr (holding frameL))).len = 0#8 := by decide +kernel
/-- P1v: an empty line is silent. -/
theorem test_cr_empty : (nextOf (exec .cr State.reset)).events = []
    ∧ (nextOf (exec .cr State.reset)).out.valid = false := by decide +kernel
/-- P14v. -/
theorem test_lf_overflow :
    (nextOf (exec .lf { holding (List.replicate 255 0x41#8) with ovf := true })).events
      = [.reject .malformed]
    ∧ (nextOf (exec .lf { holding (List.replicate 255 0x41#8) with ovf := true })).ovf = false := by
  decide +kernel
/-- V12. -/
theorem test_lf_mismatch :
    (nextOf (exec .lf (holding (asc "D,P,S,M,,*0000")))).out.status = 2#3 := by decide +kernel

/-! ## Characters -/

/-- R142: `split("a,,b")`. -/
theorem test_delim :
    (workOf (runSplit (holding (asc "a,,b")))).tokens = [asc "a", [], asc "b"] := by decide +kernel
/-- `"**1F2A"` is none (R145). -/
theorem test_mark_twice : parseCksum (asc "**1F2A") = none
    ∧ (workOf (exec .mark { State.reset with work := { ck := { pos := 1 } } })).ck.bad = true := by
  decide +kernel
/-- R66: the value each digit brings into an accumulator that holds 1. -/
theorem test_hex_values :
    ([.hex0, .hex1, .hex2, .hex3, .hex4, .hex5, .hex6, .hex7, .hex8, .hex9, .hexA, .hexB, .hexC, .hexD,
      .hexE, .hexF, .hexALower, .hexBLower, .hexCLower, .hexDLower, .hexELower,
      .hexFLower].map fun i =>
        (workOf (exec i { State.reset with work := { ck := { pos := 2, value := 1 } } })).ck.value)
    = [16, 17, 18, 19, 20, 21, 22, 23, 24, 25, 26, 27, 28, 29, 30, 31, 26, 27, 28, 29, 30, 31] := by
  decide +kernel
/-- R67: the value each digit brings into an accumulator that holds 1. -/
theorem test_dec_values :
    ([.dec0, .dec1, .dec2, .dec3, .dec4, .dec5, .dec6, .dec7, .dec8, .dec9].map fun i =>
        (workOf (exec i { State.reset with work := { lit := { m := 1 } } })).lit.m)
    = [10, 11, 12, 13, 14, 15, 16, 17, 18, 19] := by decide +kernel
/-- R176, R178: a sign at byte 0, and one that comes later. -/
theorem test_signs :
    (workOf (exec .minus State.reset)).lit.neg = true ∧ (workOf (exec .plus State.reset)).lit.neg = false
    ∧ (workOf (exec .plus { State.reset with work := { lit := { pos := 1 } } })).lit.bad = true := by
  decide +kernel
/-- R178: the second point, and a point in an integer literal. -/
theorem test_point :
    (workOf (exec .point { State.reset with work := { lit := { dec := true, point := true } } })).lit.bad
      = true
    ∧ (workOf (exec .point State.reset)).lit.bad = true := by decide +kernel

/-! ## The frame level -/

theorem test_frame_overlong : (workOf (exec .frameOverlong State.reset)).verdict
    = some (.reject .malformed) := by decide +kernel
theorem test_frame_empty : exec .frameEmpty State.reset = .next State.reset := rfl
/-- V3: five tokens, the checksum matching or not. -/
theorem test_frame_short : emitted (asc "D,P,S,M,*1F2A") = [.reject .malformed] := by decide +kernel
/-- R145: `parse_cksum("*C1AB")` and `"*11F2A"`. -/
theorem test_cksum_value : (workOf (exec (.cksum (asc "C1AB")) State.reset)).parsed = 49579
    ∧ (workOf (exec (.cksum (asc "11F2A")) State.reset)).parsed = 73514 := by decide +kernel
/-- V8 and V9: no digit, and a byte that is none. -/
theorem test_cksum_bad :
    (workOf (exec (.cksum []) State.reset)).verdict = some (.reject .malformed)
    ∧ (workOf (exec (.cksum (asc "12G4")) State.reset)).verdict = some (.reject .malformed) := by
  decide +kernel
/-- S3b and S4: the span's CRC is 0xC1AB. -/
theorem test_crc_check :
    (workOf (exec .crcCheck { holding frameL with work := { parsed := 49579 } })).verdict = none
    ∧ (workOf (exec .crcCheck { holding frameL with work := { parsed := 0 } })).verdict
      = some (.reject .checksumMismatch) := by decide +kernel
/-- V17 and V20: a beginning is no match; an expectation of length 0 accepts the empty token. -/
theorem test_id_check :
    (workOf (exec (.idCheck (asc "PTH420") []) (withProduct (asc "PTH42") State.reset))).verdict
      = some (.reject .identityMismatch)
    ∧ (workOf (exec (.idCheck [] (asc "12345")) (withProduct [] State.reset))).verdict = none := by
  decide +kernel
/-- V16. -/
theorem test_id_check_serial :
    (workOf (exec (.idCheck [] (asc "12345")) (withSerial (asc "12346") State.reset))).verdict
      = some (.reject .identityMismatch) := by decide +kernel
/-- F14: the four channels. -/
theorem test_frame_d :
    emitted (asc "D,P,S,M,100218,Pa,24.3141,C,57.1404,%,412.5,ppm,,*3085")
      = [accepts (some 100218) (some (243141, 4)) (some (571404, 4)) (some (4125, 1))] := by
  decide +kernel
/-- V24 and V28. -/
theorem test_frame_other :
    emitted (asc "I,PTH420,12345,Hello,,*B21B") = [.reject .unsupportedFrameType]
    ∧ emitted (0x00#8 :: asc "D,PTH420,12345,Hello,,*2621") = [.reject .unsupportedFrameType] := by
  decide +kernel

/-! ## The field level -/

/-- I5, I7. -/
theorem test_unit_pa_range :
    (workOf (exec (.unitPa (asc "2147483647")) State.reset)).update.pressure = some 2147483647
    ∧ (workOf (exec (.unitPa (asc "-2147483648")) State.reset)).update.pressure = some (-2147483648) := by
  decide +kernel
/-- I6 and F15. -/
theorem test_unit_pa_bad :
    (workOf (exec (.unitPa (asc "2147483648")) State.reset)).verdict = some (.reject .malformed)
    ∧ (workOf (exec (.unitPa (asc "101325.0")) State.reset)).verdict = some (.reject .malformed) := by
  decide +kernel
/-- D12v and D4v. -/
theorem test_unit_c :
    (workOf (exec (.unitC (asc "-2147483.648")) State.reset)).update.temperature
      = some { sig := -2147483648, scale := 3 }
    ∧ (workOf (exec (.unitC (asc "-0.5")) State.reset)).update.temperature
      = some { sig := -5, scale := 1 } := by decide +kernel
/-- D11v and D18v. -/
theorem test_unit_c_bad :
    (workOf (exec (.unitC (asc "2147483.648")) State.reset)).verdict = some (.reject .malformed)
    ∧ (workOf (exec (.unitC (asc "5.")) State.reset)).verdict = some (.reject .malformed) := by
  decide +kernel
/-- R177: `"150.0"`; D18v: `".5"`. -/
theorem test_unit_rh :
    (workOf (exec (.unitRh (asc "150.0")) State.reset)).update.humidity
      = some { sig := 1500, scale := 1 }
    ∧ (workOf (exec (.unitRh (asc ".5")) State.reset)).verdict = some (.reject .malformed) := by
  decide +kernel
/-- D16v; D19v. -/
theorem test_unit_ppm :
    (workOf (exec (.unitPpm (asc "412.5")) State.reset)).update.co2
      = some { sig := 4125, scale := 1 }
    ∧ (workOf (exec (.unitPpm (asc "1e3")) State.reset)).verdict = some (.reject .malformed) := by
  decide +kernel
/-- F7, F21. -/
theorem test_unit_other : emitted (asc "D,P,S,M,abc,hPa,,*69E9") = [accepts none none none none]
    ∧ emitted (asc "D,P,S,M,1,,,*EA98") = [accepts none none none none] := by decide +kernel

/-! ## The order of the checks, and the decisions of the spec -/

/-- V23, V29, V29b, V29c. -/
theorem test_order :
    (nextOf (exec .cr (withProduct (asc "PTH420")
      (holding (asc "D,PTH421,12345,MSG,101325,Pa,23.45,C,,*0000"))))).events
        = [.reject .checksumMismatch]
    ∧ emitted (asc "I,PTH420,12345,MSG,abc,Pa,,*D0BB") = [.reject .unsupportedFrameType]
    ∧ (nextOf (exec .cr (withProduct (asc "PTH420")
      (holding (asc "I,PTH421,12345,MSG,abc,Pa,,*E508"))))).events = [.reject .identityMismatch]
    ∧ (nextOf (exec .cr (withProduct (asc "PTH420")
      (holding (asc "D,PTH421,12345,MSG,abc,Pa,,*0EC6"))))).events = [.reject .identityMismatch] := by
  decide +kernel
/-- F11, F12: the last pair wins, the earlier one is still converted. -/
theorem test_repeated_unit :
    emitted (asc "D,P,S,M,1,C,2,C,,*D584") = [accepts none (some (2, 0)) none none]
    ∧ emitted (asc "D,P,S,M,x,C,2,C,,*4881") = [.reject .malformed] := by decide +kernel
/-- V34, V37, V39: checksum tokens of three, one and five digits. -/
theorem test_digit_count : emitted (asc "D,P,S,M46,,*373") = [accepts none none none none]
    ∧ emitted (asc "D,P,S,M3500,,*D") = [accepts none none none none]
    ∧ emitted (asc "D,P,S,M,,*10790") = [.reject .checksumMismatch] := by decide +kernel
/-- S3a, and the same line with `PAIR_TAIL` = 1. -/
theorem test_pair_tail :
    emitted (asc "D,PTH420,12345,MSG,101325,Pa,23.45,C,*EB68") = [accepts (some 101325) none none none]
    ∧ (nextOf (exec .cr
      { holding (asc "D,PTH420,12345,MSG,101325,Pa,23.45,C,*EB68") with
        params := { crcTail := 5, pairTail := 1 } })).events
      = [accepts (some 101325) (some (2345, 2)) none none] := by decide +kernel
/-! ## Edges -/

/-- Ports with an expected product of this length, enabled or not. -/
def productPorts (en : Bool) (len : BitVec 6) : CfgPorts :=
  { CfgPorts.zero with prodEn := en, prodLen := len, prod := 0x3231#256 }

/-- Byte 0 of the port is bits 7 to 0 (R10). -/
theorem test_reset_loads :
    (nextOf (step (State.reset.setRx [PortSample.ofReset (productPorts true 2#6)]))).identity
      = { product := some [0x31#8, 0x32#8], serial := none } := by decide +kernel
/-- U6 at its boundary. -/
theorem test_reset_illegal :
    (productPorts true 32#6).legal = true ∧ (productPorts true 33#6).legal = false
    ∧ (productPorts false 33#6).legal = true
    ∧ isNext (step (State.reset.setRx [PortSample.ofReset (productPorts true 33#6)])) = false := by
  decide +kernel
/-- R40: no byte is accepted while `in_ready` is 0. -/
theorem test_idle :
    (nextOf (step ((holding [0x44#8]).setRx
      [{ PortSample.ofByte 0x0A#8 with canTake := false }]))).line = [0x44#8] := by decide +kernel
/-- R27: `in_ready` is 0 while `rst = 1`, whatever the sample holds, and 1 where a byte is taken. -/
theorem test_in_ready :
    (nextOf (step { State.reset with
      inReady := true, rx := [{ PortSample.ofByte 0x41#8 with rst := true }] })).inReady = false
    ∧ (nextOf (step (State.reset.setRx [PortSample.ofByte 0x41#8]))).inReady = true := by
  decide +kernel

/-! ## Witnesses: for each obligation with hypotheses, values that meet all of them together -/

theorem witness_DecodeEncodeRoundTrip : ∃ i : Instr, i.wf = true ∧ i.context ≠ .condition :=
  ⟨.unitOther [0x37#8] [], by decide⟩

theorem witness_DecodedBytesAreTheOperations :
    ∃ (c : Context) (t : Token) (i : Instr), decode c t = .ok i :=
  ⟨.pair, [0x2C#8, 0x25#8], .unitRh [], by decide⟩

/-- The neighbours of the two terminators. -/
theorem witness_ByteClasses :
    ∀ b ∈ [0x09#8, 0x0B#8, 0x0C#8, 0x0E#8], b ≠ 0x0A#8 ∧ b ≠ 0x0D#8 := by decide

theorem witness_CrcLaws : ∃ s t : Token, s ≠ t ∧ s.length = t.length := ⟨[0#8], [1#8], by decide⟩

/-- A burst of sixteen bits that begins and ends inside a byte. -/
theorem witness_CrcDetectsShortBursts : ∃ (s t : Token) (k : Nat), s.length = t.length ∧ s ≠ t ∧
    ∀ j, (messageBits s)[j]? ≠ (messageBits t)[j]? → k ≤ j ∧ j < k + 16 := by
  refine ⟨[0x00#8, 0x00#8, 0x00#8], [0x0F#8, 0xFF#8, 0xF0#8], 4, rfl, by decide, fun j hne => ?_⟩
  have inside : ∀ i ∈ List.range 24, (messageBits [0x00#8, 0x00#8, 0x00#8])[i]? ≠
      (messageBits [0x0F#8, 0xFF#8, 0xF0#8])[i]? → 4 ≤ i ∧ i < 20 := by decide +kernel
  by_cases h : j < 24
  · exact inside j (List.mem_range.mpr h) hne
  · refine absurd ?_ hne
    rw [List.getElem?_eq_none, List.getElem?_eq_none] <;> exact Nat.le_of_not_lt h

theorem witness_CrcDetectsOddErrors : ∃ s t : Token, s.length = t.length ∧
    ((messageBits (xorBytes s t)).filter (fun b => b)).length % 2 = 1 :=
  ⟨[0x00#8, 0x41#8], [0x80#8, 0x42#8], by decide⟩

/-- A line of three bytes: the last three bytes of the delay line are its own. -/
theorem witness_StreamingCrcInvariant : ∃ (s dly : Token) (j : Nat), dly.length = 5 ∧ j < 5 ∧
    5 ≤ s.length + j := ⟨[1#8, 2#8, 3#8], List.replicate 5 0#8, 2, by decide⟩

theorem witness_StepRunsDecodedByte : ∃ (s : State) (p : PortSample) (r : List PortSample),
    s.rx = p :: r ∧ p.rst = false ∧ p.inValid = true ∧ p.inReady = true :=
  ⟨State.reset.setRx [PortSample.ofByte 0x0D#8], PortSample.ofByte 0x0D#8, [], by decide⟩

/-- A sample the block does not take, one the host does not present, and no sample. -/
theorem witness_IdleEdgeOnlyEndsStrobe :
    (∀ p ∈ [{ PortSample.ofByte 0x41#8 with canTake := false },
        { PortSample.ofByte 0x41#8 with inValid := false }],
      ∃ (s : State) (r : List PortSample), s.rx = p :: r ∧ p.rst = false
        ∧ (p.inValid && p.inReady) = false)
      ∧ State.reset.rx = [] := by
  refine ⟨fun p hp => ⟨State.reset.setRx [p], [], rfl, ?_⟩, rfl⟩
  revert p
  decide

/-- Enabled lengths 32 and 33, in a sample that presents a byte the block could take. -/
theorem witness_ResetEdge : ∀ q ∈ [(32#6, true), (33#6, false)],
    ∃ (s : State) (p : PortSample) (r : List PortSample), s.rx = p :: r ∧ p.rst = true
      ∧ p.canTake = true ∧ p.inValid = true ∧ p.cfg.legal = q.2 := by
  intro q hq
  refine ⟨State.reset.setRx [{ PortSample.ofByte 0x41#8 with rst := true, cfg := productPorts true q.1 }],
    { PortSample.ofByte 0x41#8 with rst := true, cfg := productPorts true q.1 }, [], rfl, rfl, rfl, rfl, ?_⟩
  revert q
  decide +kernel

theorem witness_ConfigPortsReadOnlyAtReset : ∃ p : PortSample, p.rst = false :=
  ⟨PortSample.ofByte 0x41#8, rfl⟩

theorem witness_StepIsTotal : ∃ s : State, s.cfgLegal = true ∧ s.rx ≠ [] ∧
    ∀ p, s.rx.head? = some p → p.rst = true → p.cfg.legal = true :=
  ⟨State.reset.setRx [PortSample.ofReset (productPorts true 32#6)], by decide, by decide, by
    intro p hp _
    obtain rfl : _ = p := Option.some.inj hp
    decide⟩

/-- A step for each clause: an event, none, a new output sequence at a reset edge. -/
theorem witness_StrobeExactlyWithEvent : ∃ s t u s' t' u' : State,
    (step s = .next s' ∧ s'.out.valid = true) ∧ (step t = .next t' ∧ t'.events = t.events)
      ∧ step u = .next u' ∧ u.events ≠ [] ∧ u'.events = []
        ∧ ∃ (p : PortSample) (r : List PortSample), u.rx = p :: r ∧ p.rst = true := by
  refine ⟨(holding frameM).setRx [PortSample.ofByte 0x0D#8], State.reset,
    { State.reset with
      rx := [PortSample.ofReset CfgPorts.zero], events := [.reject .malformed] }, _, _, _,
    ⟨eq_next (by decide +kernel), by decide +kernel⟩, ⟨eq_next (by decide +kernel), by decide +kernel⟩,
    eq_next (by decide +kernel), by decide, by decide +kernel, _, _, rfl, rfl⟩

/-- A line of two bytes is good in every respect. -/
theorem holding_inv : ((holding [0x44#8, 0x2C#8]).setRx [PortSample.ofByte 0x0D#8]).Inv where
  lbCanonical := by decide +kernel
  ovfFull := by decide +kernel
  noTerminator := by decide +kernel
  workIdle := rfl
  cfgLegal := by decide +kernel
  outWf := by decide +kernel

theorem witness_StepKeepsInvariant : ∃ s t : State, s.Inv ∧ step s = .next t :=
  ⟨_, _, holding_inv, eq_next (by decide +kernel)⟩

/-- The same line, with and without a byte left behind at index 2. -/
theorem witness_StaleBufferNeverRead : ∃ s t : State, s.SameButStale t ∧ s.lb ≠ t.lb :=
  ⟨holding [0x44#8, 0x2C#8], { holding [0x44#8, 0x2C#8] with lb := [(0, 0x44#8), (1, 0x2C#8), (2, 0x50#8)] },
    ⟨by decide +kernel, by decide +kernel, by decide +kernel, by decide +kernel⟩, by decide +kernel⟩

theorem witness_EventDependsOnLineAlone : ∃ s t s' t' : State, s ≠ t ∧ s.line = t.line ∧ s.ovf = t.ovf
    ∧ s.params = t.params ∧ s.identity = t.identity ∧ exec .cr s = .next s' ∧ exec .lf t = .next t' :=
  ⟨holding frameM, { holding frameM with freeIx := 1, events := [.reject .malformed] }, _, _,
    by decide +kernel, by decide +kernel, rfl, rfl, rfl, eq_next (by decide +kernel), eq_next (by decide +kernel)⟩

theorem witness_NoOperationReconfigures : ∃ (i : Instr) (s t : State), exec i s = .next t ∧
    ∀ b, i ≠ .data b := ⟨.cr, holding frameM, _, eq_next (by decide +kernel), by decide⟩

theorem witness_LowerLevelsTouchOnlyWork : ∃ (i : Instr) (s : State), i.context ≠ .byte ∧
    (s.cfgLegal = true ∨ ∀ product serial, i ≠ .idCheck product serial) :=
  ⟨.idCheck [] [], withProduct (asc "X") State.reset, by decide, .inl (by decide +kernel)⟩

/-- The first and the last index. -/
theorem witness_LineBufferWriteRead : ∀ a ∈ [0, 254], ∃ m : List Host.Cell,
    m ≠ [] ∧ Memory.wf m = true ∧ a < 255 := by
  intro a ha
  refine ⟨[(7, 0x41#8)], by decide, by decide, ?_⟩
  revert a
  decide

theorem witness_SessionsAreIndependent : ∃ (s t : State) (p : PortSample) (edges : List PortSample),
    s.params = t.params ∧ Memory.wf s.lb = true ∧ Memory.wf t.lb = true ∧ s.rx = p :: edges
      ∧ t.rx = p :: edges ∧ p.rst = true ∧ p.cfg.legal = true ∧ (∀ q ∈ edges, q.rst = false)
      ∧ s.line ≠ t.line :=
  ⟨(holding frameM).setRx [PortSample.ofReset CfgPorts.zero, PortSample.ofByte 0x41#8],
    State.reset.setRx [PortSample.ofReset CfgPorts.zero, PortSample.ofByte 0x41#8],
    PortSample.ofReset CfgPorts.zero, [PortSample.ofByte 0x41#8],
    rfl, by decide +kernel, by decide +kernel, rfl, rfl, rfl, by decide, by decide, by decide +kernel⟩

/-- Lengths 254 and 255. -/
theorem witness_DataStoresOrOverflows : ∃ s t : State, isTerminator 0x41#8 = false
    ∧ Memory.wf s.lb = true ∧ s.len = 254#8 ∧ s.len.toNat < 255
    ∧ Memory.wf t.lb = true ∧ t.len = 255#8 :=
  ⟨holding (List.replicate 254 0x41#8), holding (List.replicate 255 0x41#8), by decide +kernel⟩

/-- A line for each clause. -/
theorem witness_TerminatorEmitsDecode :
    ({ holding (asc "A") with len := 255#8, ovf := true }).ovf = true
      ∧ (State.reset.ovf = false ∧ State.reset.len = 0#8)
      ∧ ((holding frameM).ovf = false ∧ (holding frameM).len ≠ 0#8
        ∧ (holding frameM).cfgLegal = true) := by decide +kernel

theorem witness_SecondTerminatorIsSilent : ∃ (s t u : State) (a b : PortSample) (r : List PortSample),
    s.rx = a :: b :: r ∧ (acceptedByte a = some 0x0D#8 ∨ acceptedByte a = some 0x0A#8)
      ∧ (acceptedByte b = some 0x0D#8 ∨ acceptedByte b = some 0x0A#8)
      ∧ step s = .next t ∧ step t = .next u :=
  ⟨(holding frameM).setRx [PortSample.ofByte 0x0D#8, PortSample.ofByte 0x0A#8], _, _,
    PortSample.ofByte 0x0D#8, PortSample.ofByte 0x0A#8, [], rfl, by decide, by decide,
    eq_next (by decide +kernel), eq_next (by decide +kernel)⟩

theorem witness_SessionOutputOfInput : ∃ (s : State) (edges rest : List PortSample),
    s.rx = edges ++ rest ∧ (∀ p ∈ edges, p.rst = false) ∧ s.atLineStart = true ∧ s.cfgLegal = true
      ∧ Memory.wf s.lb = true ∧ accepted edges ≠ [] :=
  ⟨State.reset.setRx [PortSample.ofByte 0x41#8, PortSample.ofByte 0x0D#8,
      PortSample.ofReset CfgPorts.zero],
    [PortSample.ofByte 0x41#8, PortSample.ofByte 0x0D#8], [PortSample.ofReset CfgPorts.zero],
    by decide⟩

/-- A rejection, and an update with every channel. -/
theorem witness_PortsCarryTheEvent :
    (∃ (s t : State) (k : RejectKind), exec .cr s = .next t ∧ t.events = s.events ++ [.reject k])
      ∧ ∃ (s t : State) (u : Update), exec .lf s = .next t ∧ t.events = s.events ++ [.accept u]
        ∧ u.pressure.isSome = true ∧ u.temperature.isSome = true ∧ u.humidity.isSome = true
        ∧ u.co2.isSome = true :=
  ⟨⟨holding (asc "A"), _, .malformed, eq_next (by decide +kernel), by decide +kernel⟩,
    ⟨holding (asc "D,P,S,M,100218,Pa,24.3141,C,57.1404,%,412.5,ppm,,*3085"), _,
      { pressure := some 100218
        temperature := some { sig := 243141, scale := 4 }
        humidity := some { sig := 571404, scale := 4 }
        co2 := some { sig := 4125, scale := 1 } },
      eq_next (by decide +kernel), by decide +kernel⟩⟩

theorem witness_CrcCheckCompares : ∃ s t : State,
    (crc16 (s.line.take (s.line.length - s.params.crcTail))).toNat = s.work.parsed
      ∧ (crc16 (t.line.take (t.line.length - t.params.crcTail))).toNat ≠ t.work.parsed :=
  ⟨{ holding frameM with work := { parsed := 0x0790 } }, holding frameM, by decide +kernel⟩

/-- The product differs, only the serial number differs, each expectation absent or equal, and the
longest legal length and the shortest illegal one. -/
theorem witness_IdCheckCompares : ∃ s t u v : State,
    (s.cfgLegal = true ∧ s.cfgProd.en = true
      ∧ s.cfgProd.bytes.toList.take s.cfgProd.len.toNat ≠ asc "PTH420"
      ∧ s.cfgSer.en = false)
      ∧ (t.cfgLegal = true ∧ t.cfgProd.bytes.toList.take t.cfgProd.len.toNat = asc "PTH420"
        ∧ t.cfgSer.bytes.toList.take t.cfgSer.len.toNat = asc "12345" ∧ t.cfgSer.en = true
        ∧ t.cfgSer.bytes.toList.take t.cfgSer.len.toNat ≠ asc "12346")
      ∧ (u.cfgLegal = true ∧ u.cfgProd.en = true ∧ u.cfgProd.len = 32#6
        ∧ u.cfgProd.bytes.toList.take u.cfgProd.len.toNat = List.replicate 32 0x41#8
        ∧ u.cfgSer.en = false)
      ∧ v.cfgLegal = false ∧ v.cfgProd.len = 33#6 :=
  ⟨withProduct (asc "PTH42") State.reset,
    withSerial (asc "12345") (withProduct (asc "PTH420") State.reset),
    withProduct (List.replicate 32 0x41#8) State.reset,
    { State.reset with cfgProd := { IdRegs.absent with en := true, len := 33#6 } },
    by decide +kernel⟩

/-- Four commas. -/
theorem witness_ShortLineIsMalformed : ∃ s : State, s.ovf = false ∧ s.line ≠ []
    ∧ s.line.count 0x2C#8 < 5 := ⟨holding (asc "D,P,S,M,*1F2A"), by decide +kernel⟩

/-- V5 and V10. -/
theorem witness_BadMarkerIsMalformed : ∀ line ∈ [asc ",,,,,", asc "D,P,S,M,,**1F2A"],
    ∃ s : State, s.ovf = false ∧ 5 ≤ s.line.count 0x2C#8
      ∧ parseCksum (lastToken (split s.line)) = none := by
  intro line hl
  refine ⟨holding line, ?_⟩
  revert line
  decide +kernel

/-- V12. -/
theorem witness_WrongChecksumIsMismatch : ∃ (s : State) (parsed : Nat), s.HasChecksum parsed ∧
    (crc16 (coveredSpan s.params s.line)).toNat ≠ parsed :=
  ⟨holding (asc "D,P,S,M,,*0000"), 0, ⟨by decide +kernel, by decide +kernel, by decide +kernel⟩, by decide +kernel⟩

theorem holding_passesCrc : (holding frameM).PassesCrc :=
  ⟨by decide +kernel, by decide +kernel, by decide +kernel⟩

/-- The product differs, and only the serial number differs. -/
theorem witness_WrongDeviceIsIdentityMismatch : ∃ s t : State,
    (s.PassesCrc ∧ s.cfgLegal = true ∧ differs s.cfgProd.expected (tokenAt (split s.line) 1) = true)
      ∧ t.PassesCrc ∧ t.cfgLegal = true
        ∧ differs t.cfgProd.expected (tokenAt (split t.line) 1) = false
        ∧ differs t.cfgSer.expected (tokenAt (split t.line) 2) = true :=
  ⟨withProduct (asc "Q") (holding frameM), withSerial (asc "T") (holding frameM),
    ⟨⟨by decide +kernel, by decide +kernel, by decide +kernel⟩, by decide +kernel, by decide +kernel⟩,
    ⟨by decide +kernel, by decide +kernel, by decide +kernel⟩, by decide +kernel, by decide +kernel,
    by decide +kernel⟩

/-- V27: an empty token 0. -/
theorem witness_OtherTypeIsUnsupported : ∃ s : State, s.PassesIdentity ∧
    tokenAt (split s.line) 0 ≠ [0x44#8] :=
  ⟨holding (asc ",PTH420,12345,Hello,,*543A"),
    ⟨⟨by decide +kernel, by decide +kernel, by decide +kernel⟩, by decide +kernel, by decide +kernel,
      by decide +kernel⟩, by decide +kernel⟩

/-- The shortest `pre`, and each count of digits. -/
theorem witness_SpanByDigitCount : ∀ k ∈ [1, 2, 3, 4, 5, 6], ∃ pre h : Token, pre.length = 4 ∧
    4 ≤ pre.length ∧ h ≠ [] ∧ h.length = k := by
  intro k hk
  refine ⟨List.replicate 4 0x2C#8, List.replicate k 0x30#8, ?_⟩
  revert k
  decide

/-- V14's identity on a frame with an unknown unit between two known ones. -/
def sampleFrame : FrameFields :=
  { lineType := [0x44#8], product := asc "PTH420", serial := asc "12345", message := [],
    pairs := [(asc "1", asc "C"), (asc "abc", asc "hPa"), (asc "-2.5", asc "C")], reserved := [] }

theorem witness_WellFormedFrameIsAccepted : ∃ (s : State) (f : FrameFields), f.lineType = [0x44#8]
    ∧ isToken f.product = true ∧ isToken f.serial = true ∧ isToken f.message = true
    ∧ isToken f.reserved = true
    ∧ (∀ q ∈ f.pairs, isToken q.1 = true ∧ isToken q.2 = true ∧ pairConverts q = true)
    ∧ s.line = buildFrame f ∧ s.ovf = false ∧ s.params = Params.decided ∧ s.cfgLegal = true
    ∧ differs s.cfgProd.expected f.product = false ∧ differs s.cfgSer.expected f.serial = false :=
  ⟨withProduct (asc "PTH420") (holding (buildFrame sampleFrame)), sampleFrame, rfl, by decide +kernel,
    by decide +kernel, by decide +kernel, by decide +kernel, by decide +kernel, by decide +kernel,
    rfl, rfl, by decide +kernel, by decide +kernel, by decide +kernel⟩

/-- V33, V31, V32 and V30: a byte that is no comma, the comma before the mark, one of the five commas of
a line of six tokens, and one of more. -/
theorem witness_OneCorruptedByteIsRejected :
    ∀ q ∈ [(frameL, 19, accepts (some 101325) (some (2345, 2)) none none),
        (frameL, 37, accepts (some 101325) (some (2345, 2)) none none),
        (frameM, 1, accepts none none none none),
        (frameL, 1, accepts (some 101325) (some (2345, 2)) none none)],
      ∃ (line : Token) (i : Nat) (old new : Byte), line = q.1 ∧ i = q.2.1
        ∧ (decodeLine Params.decided { product := none, serial := none } line).event = some q.2.2
        ∧ (lastToken (split line)).length = 5 ∧ i < line.length - 5 ∧ (line)[i]? = some old
        ∧ new ≠ old ∧ isTerminator new = false := by
  intro q hq
  refine ⟨q.1, q.2.1, q.1.getD q.2.1 0#8, 0x78#8, rfl, rfl, ?_⟩
  revert q
  decide +kernel

theorem witness_LeadingZeroIsUnsupported : ∃ (p : Params) (cfg : Identity) (line : Token) (u : Update),
    decodeLine p cfg line = .accept u :=
  ⟨Params.decided, { product := none, serial := none }, frameM, {}, by decide +kernel⟩

/-- The smallest counts of tokens for each clause. -/
theorem witness_PairsLeaveTheLastTwoTokens :
    (∃ (tokens : List Token) (i : Nat) (q : Token × Token), 6 ≤ tokens.length
      ∧ (pairsOf Params.decided tokens)[i]? = some q)
      ∧ ∃ pre : List Token, 4 ≤ pre.length ∧ pre.length % 2 = 0 :=
  ⟨⟨split (asc "D,P,S,M,5,Pa,x,,*E369"), 0, (asc "5", asc "Pa"), by decide +kernel⟩,
    ⟨List.replicate 4 [], by decide⟩⟩

theorem witness_SignAndPointPlaces : ∃ s t u v : State,
    s.work.lit.pos = 0 ∧ t.work.lit.pos ≠ 0
      ∧ (u.work.lit.dec = true ∧ u.work.lit.point = false)
      ∧ (v.work.lit.dec = false ∨ v.work.lit.point = true) :=
  ⟨State.reset, { State.reset with work := { lit := { pos := 1 } } },
    { State.reset with work := { lit := { dec := true } } }, State.reset, by decide⟩

/-- The empty unit token, and one that differs in case alone. -/
theorem witness_UnknownUnitIsIgnored : ∀ unit ∈ [[], [0x70#8, 0x61#8]], unit ≠ [0x50#8, 0x61#8]
    ∧ unit ≠ [0x43#8] ∧ unit ≠ [0x25#8] ∧ unit ≠ [0x70#8, 0x70#8, 0x6D#8] := by decide

theorem witness_LastPairWins : ∃ pairs : List (Token × Token), pairs.length = 3 ∧
    ∀ q ∈ pairs, pairConverts q = true := ⟨sampleFrame.pairs, by decide +kernel⟩

/-- F19: a good value before the bad one. -/
theorem witness_OneBadLiteralRejectsFrame : ∃ s : State, s.PassesIdentity ∧
    tokenAt (split s.line) 0 = [0x44#8]
    ∧ ∃ q ∈ pairsOf s.params (split s.line), pairConverts q = false :=
  ⟨holding (asc "D,P,S,M,1,Pa,bad,C,,*7EDF"),
    ⟨⟨by decide +kernel, by decide +kernel, by decide +kernel⟩, by decide +kernel, by decide +kernel,
      by decide +kernel⟩, by decide +kernel, by decide +kernel⟩

end Sys2Proof.Tests
end

section
/-! What an evaluation reads and what it writes: every operation below the byte level, and the
evaluation of a completed line, reads only the line, `OVF`, the parameters, the configuration and the
intermediate values, and writes only the intermediate values (10_state.md R16, 20_memory.md R47). -/

namespace Sys2Proof.Machine

/-- The two states agree on everything an evaluation reads (R47). -/
structure State.SameView (s t : State) : Prop where
  line : s.line = t.line
  ovf : s.ovf = t.ovf
  params : s.params = t.params
  identity : s.identity = t.identity
  cfgLegal : s.cfgLegal = t.cfgLegal
  work : s.work = t.work

theorem State.SameView.refl (s : State) : s.SameView s := ⟨rfl, rfl, rfl, rfl, rfl, rfl⟩

theorem State.SameView.setWork {s t : State} (h : s.SameView t) (w : Work) :
    (s.setWork w).SameView (t.setWork w) :=
  ⟨h.line, h.ovf, h.params, h.identity, h.cfgLegal, rfl⟩

theorem State.SameView.decided {s t : State} (h : s.SameView t) : s.decided = t.decided := by
  simp [State.decided, h.work]

theorem State.SameView.product {s t : State} (h : s.SameView t) :
    s.cfgProd.expected = t.cfgProd.expected := congrArg Identity.product h.identity

theorem State.SameView.serial {s t : State} (h : s.SameView t) :
    s.cfgSer.expected = t.cfgSer.expected := congrArg Identity.serial h.identity

theorem State.SameView.len_eq_zero {s t : State} (h : s.SameView t) :
    s.len = 0#8 ↔ t.len = 0#8 := by
  rw [← line_eq_nil_iff, h.line, line_eq_nil_iff]

/-- `f` writes nothing but the intermediate values, and what it writes there depends only on what an
evaluation reads. Where `mayRefuse` is set it may instead refuse an illegal configuration (U6). -/
def RunsOnWork (mayRefuse : Bool) (f : State → Result) : Prop :=
  ∀ s t : State, s.SameView t →
    (∃ w, f s = .next (s.setWork w) ∧ f t = .next (t.setWork w))
      ∨ (mayRefuse = true ∧ s.cfgLegal = false
        ∧ f s = .refused .illegalIdentityLength ∧ f t = .refused .illegalIdentityLength)

namespace RunsOnWork

variable {m : Bool} {f g : State → Result}

/-- With a legal configuration, or where it may not refuse at all, `f` completes. -/
theorem completes (hf : RunsOnWork m f) {s : State} (h : m = false ∨ s.cfgLegal = true) :
    ∃ w, f s = .next (s.setWork w) := by
  obtain ⟨w, hw, -⟩ | ⟨hm, hc, -⟩ := hf s s (.refl s)
  · exact ⟨w, hw⟩
  · simp_all

/-- Everything a next state of `f` can be. -/
theorem eq_setWork (hf : RunsOnWork m f) {s t : State} (h : f s = .next t) :
    ∃ w, t = s.setWork w := by
  obtain ⟨w, hw, -⟩ | ⟨-, -, hr, -⟩ := hf s s (.refl s)
  · exact ⟨w, by simpa [h] using hw⟩
  · simp [h] at hr

theorem weaken (hf : RunsOnWork false f) : RunsOnWork m f := fun s t h =>
  .inl (by simpa using hf s t h)

theorem andThen (hf : RunsOnWork m f) (hg : RunsOnWork m g) :
    RunsOnWork m fun s => Machine.andThen (f s) g := by
  intro s t h
  obtain ⟨w, hs, ht⟩ | ⟨hm, hc, hs, ht⟩ := hf s t h
  · simpa only [hs, ht, andThen_next, setWork_setWork, setWork_cfgLegal] using hg _ _ (h.setWork w)
  · exact .inr ⟨hm, hc, by simp [hs], by simp [ht]⟩

/-- Either branch of a test that depends only on what an evaluation reads. -/
theorem ite {c : State → Prop} [DecidablePred c]
    (hc : ∀ {s t : State}, s.SameView t → (c s ↔ c t))
    (hf : RunsOnWork m f) (hg : RunsOnWork m g) : RunsOnWork m fun s => if c s then f s else g s := by
  intro s t h
  by_cases hs : c s
  · simpa only [hs, (hc h).mp hs, if_true] using hf s t h
  · simpa only [hs, mt (hc h).mpr hs, if_false] using hg s t h

theorem next : RunsOnWork m .next := fun s t h =>
  .inl ⟨s.work, rfl, by rw [h.work]; rfl⟩

/-- An operation that computes its result from what an evaluation reads. -/
theorem of_eq (w : State → Work) (hf : ∀ s, f s = .next (s.setWork (w s)))
    (hw : ∀ {s t : State}, s.SameView t → w s = w t) : RunsOnWork m f := fun s t h =>
  .inl ⟨w s, hf s, hw h ▸ hf t⟩

/-- An operation that computes its result from the intermediate values alone. -/
theorem of_work (w : Work → Work) (hf : ∀ s, f s = .next (s.setWork (w s.work))) :
    RunsOnWork m f := of_eq (fun s => w s.work) hf fun h => congrArg w h.work

theorem unlessDecided (hf : RunsOnWork m f) : RunsOnWork m (unlessDecided f) :=
  ite (fun h => by rw [h.decided]) next hf

/-- An operation selected by something an evaluation reads. -/
theorem select {α : Type} {F : α → State → Result} (v : State → α)
    (hv : ∀ {s t : State}, s.SameView t → v s = v t) (hF : ∀ a, RunsOnWork m (F a)) :
    RunsOnWork m fun s => F (v s) s := fun s t h => by
  simpa only [hv h] using hF (v t) s t h

theorem raise (k : RejectKind) : RunsOnWork m fun s => .next (Machine.raise k s) :=
  of_work (fun w => { w with verdict := some (.reject k), update := {} }) fun _ => rfl

theorem setWork (w : Work) (hf : RunsOnWork m f) : RunsOnWork m fun s => f (s.setWork w) :=
  andThen (f := fun s => .next (s.setWork w)) (of_work (fun _ => w) fun _ => rfl) hf

end RunsOnWork

/-! ## Character level -/

theorem execDelim_runsOnWork : RunsOnWork false execDelim :=
  .of_work (fun w => { w with tokens := w.tokens ++ [w.cur], cur := [] }) fun _ => rfl

theorem cksumIllFormed_runsOnWork : RunsOnWork false fun s => .next (cksumIllFormed s) :=
  .of_work (fun w => { w with ck := { w.ck with pos := w.ck.pos + 1, bad := true } }) fun _ => rfl

theorem execMark_runsOnWork : RunsOnWork false execMark :=
  .ite (fun h => by rw [h.work])
    (.of_work (fun w => { w with ck := { w.ck with pos := w.ck.pos + 1 } }) fun _ => rfl)
    cksumIllFormed_runsOnWork

theorem next_cksumDigit (d : Nat) (s : State) : .next (cksumDigit d s) =
    if s.work.ck.pos = 0 then (.next (cksumIllFormed s) : Result)
    else .next (setCk { s.work.ck with
      pos := s.work.ck.pos + 1, value := s.work.ck.value * 16 + d } s) :=
  apply_ite ..

theorem cksumDigit_runsOnWork (d : Nat) : RunsOnWork false fun s => .next (cksumDigit d s) := by
  simp only [next_cksumDigit]
  exact .ite (fun h => by rw [h.work]) cksumIllFormed_runsOnWork
    (.of_work (fun w => { w with
      ck := { w.ck with pos := w.ck.pos + 1, value := w.ck.value * 16 + d } }) fun _ => rfl)

theorem litDigit_runsOnWork (d : Nat) : RunsOnWork false fun s => .next (litDigit d s) :=
  .of_work (fun w => { w with lit := litDigitAcc d w.lit }) fun s => congrArg _ (litDigit_eq d s)

theorem litSign_runsOnWork (neg : Bool) : RunsOnWork false fun s => .next (litSign neg s) :=
  .of_work (fun w => { w with
      lit := if w.lit.pos = 0 then { w.lit with pos := w.lit.pos + 1, neg := neg }
        else litBadAcc w.lit })
    fun s => congrArg _ (litSign_eq neg s)

theorem execPoint_runsOnWork : RunsOnWork false execPoint :=
  .ite (fun h => by rw [h.work])
    (.of_work (fun w => { w with lit := { w.lit with pos := w.lit.pos + 1, point := true } })
      fun _ => rfl)
    (.of_work (fun w => { w with lit := litBadAcc w.lit }) fun _ => rfl)

theorem runSplit_runsOnWork : RunsOnWork false runSplit :=
  .of_eq (fun s => { s.work with tokens := split s.line, cur := [] }) runSplit_eq
    fun h => by rw [h.work, h.line]

/-! ## Field level -/

/-- The intermediate values after a conversion. -/
def attachedWork (u : Option Update) (w : Work) : Work :=
  match u with
  | some u => { w with lit := {}, update := u }
  | none => { w with lit := {}, update := {}, verdict := some (.reject .malformed) }

theorem attached_eq_setWork (u : Option Update) (s : State) :
    attached u s = s.setWork (attachedWork u s.work) := by
  cases u <;> rfl

theorem execUnitPa_runsOnWork (value : Token) : RunsOnWork false (execUnitPa value) :=
  .of_work (fun w => attachedWork ((parseInt value).map w.update.setPressure) w) fun s => by
    rw [convertInt_eq, attached_eq_setWork]

theorem convertDec_runsOnWork (c : DecChannel) (value : Token) :
    RunsOnWork false (convertDec c value) :=
  .of_work (fun w => attachedWork ((parseDec value).map (w.update.setDec c)) w) fun s => by
    rw [convertDec_eq, attached_eq_setWork]

theorem runPair_runsOnWork (value unit : Token) : RunsOnWork false (runPair value unit) :=
  .of_work (fun w =>
      if isUnitLabel unit then attachedWork (fieldUpdate value unit w.update) w else w) fun s => by
    rw [runPair_eq, attached_eq_setWork]
    split <;> rfl

theorem runPairs_runsOnWork (ps : List (Token × Token)) : RunsOnWork false (runPairs ps) := by
  induction ps with
  | nil => exact .next
  | cons q r ih => exact (runPair_runsOnWork q.1 q.2).andThen ih.unlessDecided

/-! ## Frame level -/

/-- `CKSUM` is `parse_cksum` of the last token (R145). -/
theorem execCksum_eq (digits : Token) (s : State) : execCksum digits s = .next
    (match parseCksum (Config.markByte :: digits) with
      | some v => s.setWork { s.work with ck := {}, parsed := v }
      | none => raise .malformed (setCk {} s)) := by
  unfold execCksum
  rw [forBytes_eq_foldl runCksumChar_eq, foldl_cksumCharStep]
  exact congrArg Host.Outcome.next (endCksum_foldl digits s)

theorem execCksum_runsOnWork (digits : Token) : RunsOnWork false (execCksum digits) := by
  cases hp : parseCksum (Config.markByte :: digits) with
  | some v =>
    refine .of_work (fun w => { w with ck := {}, parsed := v }) fun s => ?_
    rw [execCksum_eq, hp]
  | none =>
    refine .of_work
      (fun w => { w with ck := {}, verdict := some (.reject .malformed), update := {} }) fun s => ?_
    rw [execCksum_eq, hp]
    rfl

theorem execCrcCheck_runsOnWork : RunsOnWork false execCrcCheck :=
  .ite (fun h => by rw [h.params, h.line, h.work]) .next (.raise _)

theorem execIdCheck_runsOnWork (product serial : Token) :
    RunsOnWork true (execIdCheck product serial) := by
  have tests : RunsOnWork true fun s =>
      if differs s.cfgProd.expected product then .next (Machine.raise .identityMismatch s)
      else if differs s.cfgSer.expected serial then .next (Machine.raise .identityMismatch s)
      else .next s :=
    .ite (fun h => by rw [h.product]) (.raise _) (.ite (fun h => by rw [h.serial]) (.raise _) .next)
  intro s t h
  have hc := h.cfgLegal
  cases hs : s.cfgLegal with
  | false => exact .inr ⟨rfl, rfl, by simp [execIdCheck, hs], by simp [execIdCheck, ← hc, hs]⟩
  | true => simpa [execIdCheck, hs, ← hc] using tests s t h

theorem execFrameD_runsOnWork : RunsOnWork false execFrameD :=
  .andThen
    (.select (F := fun ps s => runPairs ps (beginFields s))
      (fun s => pairsOf s.params s.work.tokens) (fun h => by rw [h.params, h.work])
      fun ps => .andThen (f := fun s => .next (beginFields s))
        (.of_work (fun w => { w with update := {}, verdict := none }) fun _ => rfl)
        (runPairs_runsOnWork ps))
    (.unlessDecided
      (.of_work (fun w => { w with verdict := some (.accept w.update) }) fun _ => rfl))

theorem runCksum_runsOnWork : RunsOnWork false runCksum := by
  intro s t h
  simp only [runCksum, h.work]
  obtain ⟨d, -, hd⟩ | hd := decodeLastToken_cases (lastToken t.work.tokens)
  · simpa only [hd] using execCksum_runsOnWork d s t h
  · simpa only [hd] using RunsOnWork.raise .malformed s t h

theorem runIdCheck_runsOnWork : RunsOnWork true runIdCheck :=
  .select (F := fun ts => execIdCheck (tokenAt ts 1) (tokenAt ts 2)) (fun s => s.work.tokens)
    (fun h => by rw [h.work]) fun _ => execIdCheck_runsOnWork _ _

theorem runFrameType_runsOnWork : RunsOnWork false runFrameType := by
  intro s t h
  by_cases ht : tokenAt t.work.tokens 0 = Config.typeD
  · rw [runFrameType_d ht, runFrameType_d (h.work ▸ ht)]
    exact execFrameD_runsOnWork s t h
  · rw [runFrameType_other ht, runFrameType_other (h.work ▸ ht)]
    exact RunsOnWork.raise _ s t h

theorem runChecks_runsOnWork : RunsOnWork true runChecks :=
  ((runCksum_runsOnWork.weaken.andThen execCrcCheck_runsOnWork.weaken.unlessDecided).andThen
    runIdCheck_runsOnWork.unlessDecided).andThen runFrameType_runsOnWork.weaken.unlessDecided

theorem runTokens_runsOnWork : RunsOnWork true runTokens :=
  .ite (fun h => by rw [h.work]) (.raise _) runChecks_runsOnWork

/-- The evaluation of a completed line. -/
theorem evaluateLine_runsOnWork : RunsOnWork true evaluateLine :=
  .ite (fun h => by rw [h.ovf]) (.setWork {} (.raise _))
    (.ite (fun h => h.len_eq_zero) (.setWork {} .next)
      (.setWork {} (runSplit_runsOnWork.weaken.andThen runTokens_runsOnWork)))

/-- Every operation below the byte level but `ID_CHECK`. -/
theorem exec_runsOnWork {i : Instr} (hb : i.context ≠ .byte)
    (hid : ∀ product serial, i ≠ .idCheck product serial) : RunsOnWork false (exec i) := by
  cases i
  case lf | cr | data => exact absurd rfl hb
  case idCheck => exact absurd rfl (hid _ _)
  case delim => exact execDelim_runsOnWork
  case mark => exact execMark_runsOnWork
  case hex0 | hex1 | hex2 | hex3 | hex4 | hex5 | hex6 | hex7 | hex8 | hex9
    | hexA | hexB | hexC | hexD | hexE | hexF
    | hexALower | hexBLower | hexCLower | hexDLower | hexELower | hexFLower =>
    exact cksumDigit_runsOnWork _
  case dec0 | dec1 | dec2 | dec3 | dec4 | dec5 | dec6 | dec7 | dec8 | dec9 =>
    exact litDigit_runsOnWork _
  case plus | minus => exact litSign_runsOnWork _
  case point => exact execPoint_runsOnWork
  case frameOverlong | frameShort | frameOther => exact .raise _
  case frameEmpty | unitOther => exact .next
  case cksum digits => exact execCksum_runsOnWork digits
  case crcCheck => exact execCrcCheck_runsOnWork
  case frameD => exact execFrameD_runsOnWork
  case unitPa value => exact execUnitPa_runsOnWork value
  case unitC value | unitRh value | unitPpm value => exact convertDec_runsOnWork _ value

/-- Settles O24: an operation below the byte level writes the intermediate values alone; only
`ID_CHECK` can refuse, and only an illegal configuration. -/
theorem lowerLevelsTouchOnlyWork : Obligations.LowerLevelsTouchOnlyWork := by
  intro i s hb h
  by_cases hid : ∃ product serial, i = .idCheck product serial
  · obtain ⟨product, serial, rfl⟩ := hid
    exact (execIdCheck_runsOnWork product serial).completes (.inr (by simpa using h))
  · exact (exec_runsOnWork hb (by simpa using hid)).completes (.inl rfl)

end Sys2Proof.Machine
end

section
/-! What one step can do to the block, and the invariants of 10_state.md section 3 from it. -/

namespace Sys2Proof.Machine

/-! ## Storing a byte -/

/-- The byte is stored at `LEN`, and `LEN` counts it (R121). -/
def pushByte (b : Byte) (s : State) : State :=
  incLen { s with lb := Memory.write s.lb s.len.toNat b }

theorem execData_of_room {b : Byte} {s : State} (h : s.hasRoom = true) :
    execData b s = .next (pushByte b s) := by
  have hl : s.len.toNat < Config.maxLine := by simpa [State.hasRoom] using h
  simp [execData, h, storeByte, hl, pushByte]

theorem execData_of_full {b : Byte} {s : State} (h : s.hasRoom = false) :
    execData b s = .next (setOvf s) := by
  simp [execData, h]

theorem hasRoom_iff (s : State) : s.hasRoom = true ↔ s.len.toNat < 255 :=
  decide_eq_true_iff

theorem len_eq_of_full {s : State} (h : s.hasRoom = false) : s.len = 255#8 := by
  have hl := (hasRoom_iff s).not.mp (by simp [h])
  bv_omega

theorem pushByte_line {b : Byte} {s : State} (hw : Memory.wf s.lb = true) (hr : s.hasRoom = true) :
    (pushByte b s).line = s.line ++ [b] := by
  have hl := (hasRoom_iff s).mp hr
  have hn : (s.len + 1#8).toNat = s.len.toNat + 1 := by bv_omega
  have old : ∀ i ∈ List.range s.len.toNat, (pushByte b s).load i = s.load i := fun i hi =>
    Memory.read_write_other hw b (List.mem_range.mp hi).ne
  have new : (pushByte b s).load s.len.toNat = b := Memory.read_write_same hw s.len.toNat b
  calc (pushByte b s).line
      = (List.range (s.len.toNat + 1)).map (pushByte b s).load := by rw [← hn]; rfl
    _ = s.line ++ [b] := by
      rw [List.range_succ, List.map_append, List.map_congr_left old, List.map_singleton, new]; rfl

theorem pushByte_lb_wf {b : Byte} {s : State} (hw : Memory.wf s.lb = true) (hr : s.hasRoom = true) :
    Memory.wf (pushByte b s).lb = true :=
  Memory.wf_write hw b ((hasRoom_iff s).mp hr)

/-! ## What a step can do -/

/-- Everything a step can answer from `s`, by the kind of the edge. `u` is the state once the sample is
taken and the strobe of the edge before has ended. -/
inductive StepFrom (s u : State) : State → Prop
  /-- `rst = 1` (R230). -/
  | reset (p : PortSample) (r : List PortSample) (hrx : s.rx = p :: r) (hrst : p.rst = true)
      (hp : (loadId p.cfg.prodEn p.cfg.prodLen p.cfg.prod).legal = true)
      (hs : (loadId p.cfg.serEn p.cfg.serLen p.cfg.ser).legal = true) :
      StepFrom s u { u with
        len := 0#8, ovf := false, events := [], work := {}
        cfgProd := loadId p.cfg.prodEn p.cfg.prodLen p.cfg.prod
        cfgSer := loadId p.cfg.serEn p.cfg.serLen p.cfg.ser }
  /-- No byte is accepted (R40). -/
  | idle : StepFrom s u u
  /-- `DATA` below `MAX_LINE` (R121). -/
  | stored (b : Byte) (hb : isTerminator b = false) (hr : u.hasRoom = true) :
      StepFrom s u (pushByte b u)
  /-- `DATA` at `MAX_LINE` (R121). -/
  | overflowed (hr : u.hasRoom = false) : StepFrom s u (setOvf u)
  /-- `LF` or `CR` (R122): the intermediate values `w` are those the evaluation leaves. -/
  | terminated (w : Work) : StepFrom s u (finishLine (u.setWork w))

/-- The sample of the next edge is taken and the strobe of the edge before has ended. -/
def sampled (s : State) : State := strobeEnd (nextEdge s).2

theorem sampled_eq (s : State) :
    ∃ r b, sampled s = strobeEnd ((s.setRx r).setReady b) := by
  unfold sampled nextEdge
  split
  · exact ⟨s.rx, _, rfl⟩
  · exact ⟨_, _, rfl⟩

theorem terminate_eq_next {s t : State} (h : terminate s = .next t) :
    ∃ w, t = finishLine (s.setWork w) := by
  obtain ⟨u, hu, ht⟩ := andThen_eq_next.mp h
  obtain ⟨w, rfl⟩ := evaluateLine_runsOnWork.eq_setWork hu
  exact ⟨w, by simpa [eq_comm] using ht⟩

/-- Either terminator ends the line; any other byte is `DATA` with itself (R63, R120). -/
theorem exec_decodeByte_cases (b : Byte) : exec (decodeByte b) = terminate
    ∨ (exec (decodeByte b) = execData b ∧ isTerminator b = false) := by
  unfold decodeByte
  by_cases hlf : b = Config.lineFeed
  · rw [if_pos hlf]
    exact .inl rfl
  · rw [if_neg hlf]
    by_cases hcr : b = Config.carriageReturn
    · rw [if_pos hcr]
      exact .inl rfl
    · rw [if_neg hcr]
      exact .inr ⟨rfl, by simp [isTerminator, hlf, hcr]⟩

theorem step_of_reset {s : State} {c : CfgPorts} (h : (nextEdge s).1 = .reset c) :
    step s = resetBlock c (nextEdge s).2 := by
  rw [step, ← Prod.eta (nextEdge s), h]

theorem step_of_idle {s : State} (h : (nextEdge s).1 = .idle) : step s = .next (sampled s) := by
  rw [step, ← Prod.eta (nextEdge s), h]; rfl

theorem step_of_byte {s : State} {b : Byte} (h : (nextEdge s).1 = .byte b) :
    step s = exec (decodeByte b) (sampled s) := by
  rw [step, ← Prod.eta (nextEdge s), h]; rfl

/-- Only a sample with `rst = 1` is a reset. -/
theorem rx_of_reset {s : State} {c : CfgPorts} (h : (nextEdge s).1 = .reset c) :
    ∃ p r, s.rx = p :: r ∧ p.rst = true ∧ p.cfg = c := by
  unfold nextEdge at h
  split at h
  · cases h
  · next p r hrx =>
    simp only [PortSample.read] at h
    split at h
    · next hrst => exact ⟨p, r, hrx, hrst, EdgeInput.reset.inj h⟩
    · split at h <;> cases h

theorem resetBlock_eq_next {c : CfgPorts} {s t : State} (h : resetBlock c s = .next t) :
    ((loadId c.prodEn c.prodLen c.prod).legal = true
        ∧ (loadId c.serEn c.serLen c.ser).legal = true)
      ∧ t = { strobeEnd s with
        len := 0#8, ovf := false, events := [], work := {}
        cfgProd := loadId c.prodEn c.prodLen c.prod, cfgSer := loadId c.serEn c.serLen c.ser } := by
  unfold resetBlock at h
  split at h
  · next hc => exact ⟨Bool.and_eq_true_iff.mp hc, (Host.Outcome.next.inj h).symm⟩
  · cases h

/-- The inversion of the step. -/
theorem step_eq_next {s t : State} (h : step s = .next t) : StepFrom s (sampled s) t := by
  cases he : (nextEdge s).1 with
  | reset c =>
    obtain ⟨p, r, hrx, hrst, rfl⟩ := rx_of_reset he
    obtain ⟨⟨hp, hs⟩, rfl⟩ := resetBlock_eq_next (step_of_reset he ▸ h)
    exact .reset p r hrx hrst hp hs
  | idle =>
    rw [← Host.Outcome.next.inj ((step_of_idle he).symm.trans h)]
    exact .idle
  | byte b =>
    rw [step_of_byte he] at h
    obtain hd | ⟨hd, hb⟩ := exec_decodeByte_cases b <;> rw [hd] at h
    · obtain ⟨w, rfl⟩ := terminate_eq_next h
      exact .terminated w
    · cases hr : (sampled s).hasRoom with
      | true =>
        rw [← Host.Outcome.next.inj ((execData_of_room hr).symm.trans h)]
        exact .stored b hb hr
      | false =>
        rw [← Host.Outcome.next.inj ((execData_of_full hr).symm.trans h)]
        exact .overflowed hr

/-! ## The strobe (R21) -/

theorem finishLine_strobes {s : State} {e : Event} (h : s.work.verdict = some e) :
    (finishLine s).out = driveEvent s.freeIx e := by
  simp [finishLine, h]

theorem finishLine_out_of_none {s : State} (h : s.work.verdict = none) :
    (finishLine s).out = s.out := by
  simp [finishLine, h]

theorem sampled_frame (s : State) : (sampled s).out.valid = false ∧ (sampled s).events = s.events := by
  obtain ⟨r, b, h⟩ := sampled_eq s
  rw [h]
  exact ⟨rfl, rfl⟩

/-- Settles O18: only a terminator whose line has a result strobes, and it appends that result. -/
theorem strobeExactlyWithEvent : Obligations.StrobeExactlyWithEvent := by
  intro s t h
  obtain ⟨hv, he⟩ := sampled_frame s
  cases step_eq_next h with
  | reset p r hrx hrst => exact .inr ⟨hv, .inr ⟨rfl, p, r, hrx, hrst⟩⟩
  | idle => exact .inr ⟨hv, .inl he⟩
  | stored => exact .inr ⟨hv, .inl he⟩
  | overflowed => exact .inr ⟨hv, .inl he⟩
  | terminated w =>
    cases hw : w.verdict with
    | some e =>
      rw [finishLine_strobes hw, finishLine_events]
      exact .inl ⟨rfl, e, by simp [he, hw], rfl⟩
    | none =>
      rw [finishLine_out_of_none hw, finishLine_events]
      exact .inr ⟨hv, .inl (by simp [he, hw])⟩

/-! ## The invariants -/

theorem driveEvent_wf (n : Nat) (e : Event) : (driveEvent n e).wf = true := by
  rcases e with (_ | _ | _ | _) | _ <;> rfl

theorem sampled_inv {s : State} (h : s.Inv) : (sampled s).Inv := by
  obtain ⟨r, b, hs⟩ := sampled_eq s
  rw [hs]
  exact ⟨h.lbCanonical, h.ovfFull, h.noTerminator, h.workIdle, h.cfgLegal, rfl⟩

theorem pushByte_inv {b : Byte} {s : State} (h : s.Inv) (hb : isTerminator b = false)
    (hr : s.hasRoom = true) : (pushByte b s).Inv where
  lbCanonical := pushByte_lb_wf h.lbCanonical hr
  ovfFull ho := by
    have hl := (hasRoom_iff s).mp hr
    simp [h.ovfFull ho] at hl
  noTerminator := by
    rw [pushByte_line h.lbCanonical hr]
    simpa [or_imp, forall_and, hb] using h.noTerminator
  workIdle := h.workIdle
  cfgLegal := h.cfgLegal
  outWf := h.outWf

theorem setOvf_inv {s : State} (h : s.Inv) (hr : s.hasRoom = false) : (setOvf s).Inv where
  lbCanonical := h.lbCanonical
  ovfFull _ := len_eq_of_full hr
  noTerminator := h.noTerminator
  workIdle := h.workIdle
  cfgLegal := h.cfgLegal
  outWf := h.outWf

/-- At the beginning of a line the clauses about the line hold of themselves. -/
theorem inv_of_lineStart {s : State} (hlb : Memory.wf s.lb = true) (hl : s.len = 0#8)
    (ho : s.ovf = false) (hw : s.work = {}) (hc : s.cfgLegal = true) (hout : s.out.wf = true) :
    s.Inv where
  lbCanonical := hlb
  ovfFull h := by simp [ho] at h
  noTerminator := by simp [(line_eq_nil_iff s).mpr hl]
  workIdle := hw
  cfgLegal := hc
  outWf := hout

theorem finishLine_inv {s : State} (hlb : Memory.wf s.lb = true) (hc : s.cfgLegal = true)
    (hout : s.out.wf = true) : (finishLine s).Inv := by
  refine inv_of_lineStart (by simpa) (by simp) (by simp) (by simp)
    (by simpa [State.cfgLegal] using hc) ?_
  cases hv : s.work.verdict with
  | some e => rw [finishLine_strobes hv, driveEvent_wf]
  | none => rw [finishLine_out_of_none hv, hout]

/-- Settles O19, by the kinds of a step. -/
theorem stepKeepsInvariant : Obligations.StepKeepsInvariant := by
  intro s t hs h
  have hu := sampled_inv hs
  cases step_eq_next h with
  | reset p r hrx hrst hp hser =>
    exact inv_of_lineStart hu.lbCanonical rfl rfl rfl
      (by simp [State.cfgLegal, hp, hser]) hu.outWf
  | idle => exact hu
  | stored b hb hr => exact pushByte_inv hu hb hr
  | overflowed hr => exact setOvf_inv hu hr
  | terminated w => exact finishLine_inv hu.lbCanonical hu.cfgLegal hu.outWf

/-- Settles O20: the reset state is at the beginning of a line, with nothing expected. -/
theorem resetHasInvariant : Obligations.ResetHasInvariant :=
  inv_of_lineStart Memory.wf_reset rfl rfl rfl rfl rfl

/-! ## Elements at `LEN` and above (R12, U8) -/

/-- The edge is told without the line buffer, which it leaves alone. -/
theorem nextEdge_setLb (s : State) (m : List Host.Cell) :
    nextEdge { s with lb := m } = ((nextEdge s).1, { (nextEdge s).2 with lb := m }) := by
  simp only [nextEdge]
  split <;> rfl

theorem nextEdge_line (s : State) : (nextEdge s).2.line = s.line := by
  unfold nextEdge
  split <;> rfl

namespace State.SameButStale

variable {s t : State}

/-- What no element of the line buffer decides is the same. -/
theorem congr {α : Type} (h : s.SameButStale t) (f : State → α)
    (hf : ∀ u, f { u with lb := [] } = f u) : f s = f t := by
  rw [← hf s, ← hf t, h.rest]

theorem sameView (h : s.SameButStale t) : s.SameView t where
  line := h.line
  ovf := h.congr State.ovf fun _ => rfl
  params := h.congr State.params fun _ => rfl
  identity := h.congr State.identity fun _ => rfl
  cfgLegal := h.congr State.cfgLegal fun _ => rfl
  work := h.congr State.work fun _ => rfl

theorem hasRoom (h : s.SameButStale t) : s.hasRoom = t.hasRoom :=
  h.congr State.hasRoom fun _ => rfl

/-- An operation that passes the line buffer through keeps the relation, if the lines stay equal. -/
theorem map {F : State → State} (h : s.SameButStale t)
    (hF : ∀ u m, F { u with lb := m } = { F u with lb := m }) (hl : (F s).line = (F t).line) :
    (F s).SameButStale (F t) where
  rest := by rw [← hF, ← hF, h.rest]
  line := hl
  leftCanonical := congrArg State.lb (hF s s.lb) ▸ h.leftCanonical
  rightCanonical := congrArg State.lb (hF t t.lb) ▸ h.rightCanonical

theorem strobeEnd (h : s.SameButStale t) : (strobeEnd s).SameButStale (strobeEnd t) :=
  h.map (fun _ _ => rfl) h.line

theorem nextEdge_fst (h : s.SameButStale t) : (nextEdge s).1 = (nextEdge t).1 :=
  h.congr (fun u => (nextEdge u).1) fun u => by rw [nextEdge_setLb]

theorem nextEdge_snd (h : s.SameButStale t) : (nextEdge s).2.SameButStale (nextEdge t).2 :=
  h.map (F := fun u => (nextEdge u).2) (fun u m => by rw [nextEdge_setLb])
    (by rw [nextEdge_line, nextEdge_line, h.line])

theorem pushByte (h : s.SameButStale t) (b : Byte) (hr : s.hasRoom = true) :
    (pushByte b s).SameButStale (pushByte b t) where
  rest := congrArg incLen h.rest
  line := by
    rw [pushByte_line h.leftCanonical hr, pushByte_line h.rightCanonical (h.hasRoom ▸ hr), h.line]
  leftCanonical := pushByte_lb_wf h.leftCanonical hr
  rightCanonical := pushByte_lb_wf h.rightCanonical (h.hasRoom ▸ hr)

theorem finishLine (h : s.SameButStale t) (w : Work) :
    (finishLine (s.setWork w)).SameButStale (finishLine (t.setWork w)) := by
  refine h.map (F := fun u => Machine.finishLine (u.setWork w)) (fun u m => ?_) ?_
  · cases hw : w.verdict <;> simp [Machine.finishLine, hw, emit, setWork]
  · rw [(line_eq_nil_iff _).mpr (finishLine_len _), (line_eq_nil_iff _).mpr (finishLine_len _)]

theorem terminate (h : s.SameButStale t) :
    Agree SameButStale (terminate s) (terminate t) := by
  unfold Machine.terminate
  obtain ⟨w, hs, ht⟩ | ⟨-, -, hs, ht⟩ := evaluateLine_runsOnWork s t h.sameView
  · rw [hs, ht]
    exact h.finishLine w
  · rw [hs, ht]
    exact rfl

theorem execData (h : s.SameButStale t) (b : Byte) :
    Agree SameButStale (execData b s) (execData b t) := by
  cases hr : s.hasRoom with
  | true =>
    rw [execData_of_room hr, execData_of_room (h.hasRoom ▸ hr)]
    exact h.pushByte b hr
  | false =>
    rw [execData_of_full hr, execData_of_full (h.hasRoom ▸ hr)]
    exact h.map (fun _ _ => rfl) h.line

theorem resetBlock (h : s.SameButStale t) (c : CfgPorts) :
    Agree SameButStale (resetBlock c s) (resetBlock c t) := by
  unfold Machine.resetBlock
  split
  · refine h.map (F := fun u => { Machine.strobeEnd u with
        len := 0#8, ovf := false, cfgProd := _, cfgSer := _, events := [], work := {} })
      (fun _ _ => rfl) ?_
    rw [(line_eq_nil_iff _).mpr rfl, (line_eq_nil_iff _).mpr rfl]
  · exact rfl

theorem step (h : s.SameButStale t) : Agree SameButStale (step s) (step t) := by
  have hu := h.nextEdge_snd
  cases he : (nextEdge s).1 with
  | reset c =>
    rw [step_of_reset he, step_of_reset (h.nextEdge_fst ▸ he)]
    exact hu.resetBlock c
  | idle =>
    rw [step_of_idle he, step_of_idle (h.nextEdge_fst ▸ he)]
    exact hu.strobeEnd
  | byte b =>
    rw [step_of_byte he, step_of_byte (h.nextEdge_fst ▸ he)]
    obtain hd | ⟨hd, -⟩ := exec_decodeByte_cases b <;> rw [hd]
    · exact hu.strobeEnd.terminate
    · exact hu.strobeEnd.execData b

end State.SameButStale

/-- Settles O21: a step reads the line buffer only as the line, and stores only at `LEN`. -/
theorem staleBufferNeverRead : Obligations.StaleBufferNeverRead := fun _ _ h => h.step

end Sys2Proof.Machine
end

section
/-! The CRC kept while bytes arrive (10_state.md R24) against the CRC of the string. -/

namespace Sys2Proof.Machine

theorem crc16_append_singleton (s : Token) (b : Byte) : crc16 (s ++ [b]) = crcByte (crc16 s) b := by
  simp [crc16, Config.crcXorOut]

theorem streamBytes_append_singleton (n : Nat) (s : Token) (b : Byte) (r : StreamRegs) :
    streamBytes n (s ++ [b]) r = streamByte (n + s.length) b (streamBytes n s r) := by
  induction s generalizing n r with
  | nil => rfl
  | cons a s ih =>
    rw [List.cons_append, streamBytes, ih, List.length_cons, Nat.add_right_comm, Nat.add_assoc]
    rfl

theorem streamByte_crcs (n : Nat) (b : Byte) (r : StreamRegs) : (streamByte n b r).crcs =
    if 5 ≤ n then crcByte r.crcs (r.dly.headD 0#8) else r.crcs := rfl

theorem streamByte_dly (n : Nat) (b : Byte) (r : StreamRegs) :
    (streamByte n b r).dly = r.dly.tail ++ [b] := rfl

/-- The delay line holds the end of what went into it. -/
theorem streamBytes_dly (s dly : Token) (h : dly.length = 5) :
    (streamBytes 0 s (StreamRegs.atReset dly)).dly = (dly ++ s).drop s.length := by
  induction s using List.reverseRecOn with
  | nil => simp [streamBytes, StreamRegs.atReset]
  | append_singleton s b ih =>
    rw [streamBytes_append_singleton, streamByte_dly, ih, List.tail_drop,
      ← List.append_assoc, List.length_append, List.length_singleton]
    exact (List.drop_append_of_le_length (by rw [List.length_append]; omega)).symm

/-- `CRCS` is five bytes behind. -/
theorem streamBytes_crcs (s dly : Token) (h : dly.length = 5) :
    (streamBytes 0 s (StreamRegs.atReset dly)).crcs = crc16 (s.take (s.length - 5)) := by
  induction s using List.reverseRecOn with
  | nil => rfl
  | append_singleton s b ih =>
    rw [streamBytes_append_singleton, streamByte_crcs, ih, streamBytes_dly s dly h, Nat.zero_add,
      List.length_append, List.length_singleton]
    by_cases hs : 5 ≤ s.length
    · have oldest : ((dly ++ s).drop s.length).headD 0#8 = s[s.length - 5] := by
        rw [List.headD_eq_head?_getD, List.head?_drop, List.getElem?_append_right (by omega), h,
          List.getElem?_eq_getElem (by omega), Option.getD_some]
      rw [if_pos hs, oldest, ← crc16_append_singleton, List.take_append_of_le_length (by omega),
        show s.length + 1 - 5 = s.length - 5 + 1 by omega, List.take_append_getElem]
    · rw [if_neg hs, show s.length - 5 = 0 by omega, show s.length + 1 - 5 = 0 by omega]
      rfl

/-- Settles O11: the delay line holds the last five bytes that went in, and `CRCS` the rest. -/
theorem streamingCrcInvariant : Obligations.StreamingCrcInvariant := by
  intro s dly h
  refine ⟨streamBytes_crcs s dly h, fun j hj hs => ?_⟩
  rw [streamBytes_dly s dly h, List.getElem?_drop, List.getElem?_append_right (by omega), h]

end Sys2Proof.Machine
end

section
/-! The line buffer and the edges that accept nothing (20_memory.md R40, R43, R48). -/

namespace Sys2Proof.Machine

/-- Settles O25, by the laws of the line buffer. -/
theorem lineBufferWriteRead : Obligations.LineBufferWriteRead := fun _ a v hm ha =>
  ⟨Memory.wf_write hm v ha, Memory.read_write_same hm a v,
    fun _ hb => Memory.read_write_other hm v hb⟩

theorem nextEdge_of_cons {s : State} {p : PortSample} {r : List PortSample} (h : s.rx = p :: r) :
    nextEdge s = (p.read, (s.setRx r).setReady p.inReady) := by
  simp [nextEdge, h]

theorem nextEdge_of_nil {s : State} (h : s.rx = []) :
    nextEdge s = (.idle, s.setReady (Config.freeInReady s.freeIx)) := by
  simp [nextEdge, h]

theorem PortSample.read_of_not_accepted {p : PortSample} (hrst : p.rst = false)
    (h : (p.inValid && p.inReady) = false) : p.read = .idle := by
  simp [PortSample.read, hrst, h]

/-- Settles O14: with or without a sample the edge is idle, and its step only ends the strobe. -/
theorem idleEdgeOnlyEndsStrobe : Obligations.IdleEdgeOnlyEndsStrobe := by
  intro s
  refine ⟨fun p r hrx hrst hacc => ?_, fun hrx => ?_, rfl⟩
  · have edge := nextEdge_of_cons hrx
    rw [PortSample.read_of_not_accepted hrst hacc] at edge
    rw [step_of_idle (congrArg Prod.fst edge), sampled, edge]
    rfl
  · have edge := nextEdge_of_nil hrx
    rw [step_of_idle (congrArg Prod.fst edge), sampled, edge]
    rfl

end Sys2Proof.Machine
end

section
/-! The event of a completed line: the operations a terminator runs over the line, in the order of
60_exceptions.md R205, leave the result of `decode` (42_frame_validator.md R140), so the event is a
function of the parameters, the expected identity, `OVF` and the line (20_memory.md R47). -/

namespace Sys2Proof.Machine

/-! ## `decode` in its steps (R140, R205) -/

/-- Steps 7 to 9 of `decode`. -/
def decodeType (p : Params) (tokens : List Token) : DecodeResult :=
  if tokenAt tokens 0 ≠ Config.typeD then .reject .unsupportedFrameType else decodeFields p tokens

/-- Steps 6 to 9 of `decode`. -/
def decodeIdentity (p : Params) (cfg : Identity) (tokens : List Token) : DecodeResult :=
  if differs cfg.product (tokenAt tokens 1) then .reject .identityMismatch
  else if differs cfg.serial (tokenAt tokens 2) then .reject .identityMismatch
  else decodeType p tokens

section
variable {line : Token} (p : Params) (cfg : Identity)

theorem decodeLine_of_short (hline : line ≠ []) (hn : (split line).length < Config.minTokens) :
    decodeLine p cfg line = .reject .malformed := by
  simp [decodeLine, hline, hn]

theorem decodeLine_of_no_cksum (hline : line ≠ [])
    (hck : parseCksum (lastToken (split line)) = none) :
    decodeLine p cfg line = .reject .malformed := by
  simp [decodeLine, hline, hck]

theorem decodeLine_of_cksum {v : Nat} (hline : line ≠ [])
    (hn : ¬ (split line).length < Config.minTokens)
    (hck : parseCksum (lastToken (split line)) = some v) : decodeLine p cfg line =
      if (crc16 (coveredSpan p line)).toNat ≠ v then .reject .checksumMismatch
      else decodeIdentity p cfg (split line) := by
  simp only [decodeLine, if_neg hline, if_neg hn, hck]
  rfl

end

/-! ## The checks, one by one -/

/-- Everything the loop over the pairs can answer (R170, R181). -/
theorem decodePairs_cases (ps : List (Token × Token)) (u : Update) :
    (∃ u', decodePairs u ps = .accept u') ∨ decodePairs u ps = .reject .malformed := by
  induction ps generalizing u with
  | nil => exact .inl ⟨u, rfl⟩
  | cons q r ih =>
    cases hq : fieldUpdate q.1 q.2 u with
    | none => exact .inr (by simp [decodePairs, hq])
    | some u' => simpa [decodePairs, hq] using ih u'

/-- `FRAME_D` leaves the result of `decode_fields` (R170). -/
theorem execFrameD_verdict (s : State) : ∃ w, execFrameD s = .next (s.setWork w)
    ∧ w.verdict = (decodeFields s.params s.work.tokens).event := by
  obtain ⟨w, hrun, -, -, -, -, -, hres⟩ :=
    runPairs_eq (pairsOf s.params s.work.tokens) (beginFields s) rfl
  have frameD : execFrameD s = unlessDecided acceptUpdate (s.setWork w) := by
    rw [execFrameD, hrun]; rfl
  have update : (beginFields s).work.update = {} := rfl
  rw [frameD, decodeFields]
  obtain ⟨u, hd⟩ | hd := decodePairs_cases (pairsOf s.params s.work.tokens) {}
  · simp only [update, hd] at hres
    obtain ⟨hopen, rfl⟩ := hres
    exact ⟨_, unlessDecided_of_open (by simp [State.decided, hopen]), by rw [hd]; rfl⟩
  · simp only [update, hd] at hres
    obtain ⟨hrej, -⟩ := hres
    exact ⟨w, unlessDecided_of_decided (by simp [State.decided, hrej, DecodeResult.event]),
      by rw [hd, hrej]⟩

/-- `CKSUM` on a well-formed checksum token leaves its value (R145). -/
theorem runCksum_of_some {s : State} {v : Nat} (h : parseCksum (lastToken s.work.tokens) = some v) :
    runCksum s = .next (s.setWork { s.work with ck := {}, parsed := v }) := by
  obtain ⟨d, ht, hd⟩ | hd := decodeLastToken_cases (lastToken s.work.tokens)
  · rw [ht] at h
    simp only [runCksum, hd, execCksum_eq, h]
  · simp [parseCksum_of_noMark hd] at h

/-- Any other last token rejects the line (R145). -/
theorem runCksum_of_none {s : State} (h : parseCksum (lastToken s.work.tokens) = none) :
    ∃ u, runCksum s = .next (raise .malformed u) := by
  obtain ⟨d, ht, hd⟩ | hd := decodeLastToken_cases (lastToken s.work.tokens)
  · rw [ht] at h
    exact ⟨setCk {} s, by simp only [runCksum, hd, execCksum_eq, h]⟩
  · exact ⟨s, by simp only [runCksum, hd]⟩

/-- Where `ID_CHECK` completes, it rejects the line exactly when an expectation differs (R150). -/
theorem execIdCheck_eq_next {product serial : Token} {s t : State}
    (h : execIdCheck product serial s = .next t) : t =
      if differs s.identity.product product then raise .identityMismatch s
      else if differs s.identity.serial serial then raise .identityMismatch s else s := by
  unfold execIdCheck at h
  split at h
  · refine Host.Outcome.next.inj (h.symm.trans ?_)
    simp only [apply_ite Host.Outcome.next]
    rfl
  · cases h

/-- Token 0 selects `decode_fields` or rejects the line (R151). -/
theorem runFrameType_verdict (s : State) : ∃ w, runFrameType s = .next (s.setWork w)
    ∧ w.verdict = (decodeType s.params s.work.tokens).event := by
  unfold decodeType
  by_cases h : tokenAt s.work.tokens 0 = Config.typeD
  · rw [runFrameType_d h, if_neg (not_not.mpr h)]
    exact execFrameD_verdict s
  · exact ⟨_, runFrameType_other h, by rw [if_pos h]; rfl⟩

/-! ## The checks in their order -/

/-- Steps 6 to 9, for a line that has passed the CRC. -/
theorem runIdCheck_runFrameType_verdict {s t : State} (hopen : s.decided = false)
    (h : andThen (runIdCheck s) (unlessDecided runFrameType) = .next t) :
    t.work.verdict = (decodeIdentity s.params s.identity s.work.tokens).event := by
  obtain ⟨u, hid, htype⟩ := andThen_eq_next.mp h
  have hu := execIdCheck_eq_next hid
  have rejected (hr : u = raise .identityMismatch s) :
      t.work.verdict = (DecodeResult.reject .identityMismatch).event := by
    rw [hr, unlessDecided_of_decided (raise_decided ..)] at htype
    rw [← Host.Outcome.next.inj htype]
    rfl
  unfold decodeIdentity
  by_cases hp : differs s.identity.product (tokenAt s.work.tokens 1) = true
  · rw [if_pos hp] at hu ⊢
    exact rejected hu
  · rw [if_neg hp] at hu ⊢
    by_cases hs : differs s.identity.serial (tokenAt s.work.tokens 2) = true
    · rw [if_pos hs] at hu ⊢
      exact rejected hu
    · rw [if_neg hs] at hu ⊢
      obtain ⟨w, hw, hv⟩ := runFrameType_verdict s
      rw [hu, unlessDecided_of_open hopen, hw] at htype
      rw [← Host.Outcome.next.inj htype, setWork_work, hv]

/-- Steps 5 to 9, for a line that has a checksum. -/
theorem execCrcCheck_runFrameType_verdict {s t : State} (hopen : s.decided = false)
    (h : andThen (andThen (execCrcCheck s) (unlessDecided runIdCheck)) (unlessDecided runFrameType)
      = .next t) : t.work.verdict =
      (if (crc16 (coveredSpan s.params s.line)).toNat ≠ s.work.parsed then
          DecodeResult.reject .checksumMismatch
        else decodeIdentity s.params s.identity s.work.tokens).event := by
  by_cases hcrc : (crc16 (coveredSpan s.params s.line)).toNat = s.work.parsed
  · rw [execCrcCheck, if_pos hcrc, andThen_next, unlessDecided_of_open hopen] at h
    rw [if_neg (not_not.mpr hcrc)]
    exact runIdCheck_runFrameType_verdict hopen h
  · rw [execCrcCheck, if_neg hcrc] at h
    simp only [andThen_next, unlessDecided_of_decided (raise_decided ..)] at h
    rw [if_pos hcrc, ← Host.Outcome.next.inj h]
    rfl

/-- Steps 3 to 9, for a line of six tokens or more. -/
theorem runChecks_verdict {s t : State} (hopen : s.decided = false) (hline : s.line ≠ [])
    (htok : s.work.tokens = split s.line) (hn : ¬ (split s.line).length < Config.minTokens)
    (h : runChecks s = .next t) :
    t.work.verdict = (decodeLine s.params s.identity s.line).event := by
  cases hck : parseCksum (lastToken (split s.line)) with
  | none =>
    obtain ⟨u, hu⟩ := runCksum_of_none (htok ▸ hck)
    simp only [runChecks, hu, andThen_next, unlessDecided_of_decided (raise_decided ..)] at h
    rw [decodeLine_of_no_cksum _ _ hline hck, ← Host.Outcome.next.inj h]
    rfl
  | some v =>
    rw [runChecks, runCksum_of_some (htok ▸ hck), andThen_next,
      unlessDecided_of_open (by exact hopen)] at h
    rw [decodeLine_of_cksum _ _ hline hn hck, ← htok]
    exact execCrcCheck_runFrameType_verdict (by exact hopen) h

/-- A line that fits the buffer and is not empty is cut into its tokens, which are then checked. -/
theorem evaluateLine_of_fits {s : State} (hfits : s.ovf = false) (hlen : s.len ≠ 0#8) :
    evaluateLine s = runTokens (s.setWork { tokens := split s.line }) := by
  simp only [evaluateLine, hfits, Bool.false_eq_true, if_false, if_neg hlen, runSplit_eq,
    andThen_next]
  rfl

/-- The result of a completed line that fits the buffer is `decode`'s (R140). -/
theorem evaluateLine_verdict {s t : State} (hfits : s.ovf = false) (h : evaluateLine s = .next t) :
    t.work.verdict = (decodeLine s.params s.identity s.line).event := by
  by_cases hlen : s.len = 0#8
  · simp only [evaluateLine, hfits, Bool.false_eq_true, if_false, if_pos hlen] at h
    rw [← Host.Outcome.next.inj h, decodeLine, if_pos ((line_eq_nil_iff s).mpr hlen)]
    rfl
  · have hline := mt (line_eq_nil_iff s).mp hlen
    rw [evaluateLine_of_fits hfits hlen, runTokens] at h
    by_cases hn : (split s.line).length < Config.minTokens
    · rw [setWork_work, if_pos hn] at h
      rw [← Host.Outcome.next.inj h, decodeLine_of_short _ _ hline hn]
      rfl
    · rw [setWork_work, if_neg hn] at h
      exact runChecks_verdict (s := s.setWork { tokens := split s.line }) rfl hline rfl hn h

/-! ## The event -/

/-- The event of the line in the buffer: `Malformed` where it did not fit, else what `decode` gives
(R122). It reads `OVF`, the parameters, the expected identity and the line, and nothing else. -/
def State.lineEvent (s : State) : Option Event :=
  if s.ovf then some (.reject .malformed) else (decodeLine s.params s.identity s.line).event

theorem evaluateLine_lineEvent {s t : State} (h : evaluateLine s = .next t) :
    t.work.verdict = s.lineEvent := by
  cases ho : s.ovf with
  | true =>
    rw [evaluateLine, if_pos ho] at h
    rw [← Host.Outcome.next.inj h, State.lineEvent, if_pos ho]
    rfl
  | false => rw [evaluateLine_verdict ho h, State.lineEvent, ho]; rfl

/-- A terminator appends the event of the line, if it has one (R122). -/
theorem terminate_events {s t : State} (h : terminate s = .next t) :
    t.events = s.events ++ s.lineEvent.toList := by
  obtain ⟨u, hu, hfinish⟩ := andThen_eq_next.mp h
  obtain ⟨w, hw⟩ := evaluateLine_runsOnWork.eq_setWork hu
  calc t.events
      = (finishLine u).events := by rw [Host.Outcome.next.inj hfinish]
    _ = u.events ++ u.work.verdict.toList := finishLine_events u
    _ = s.events ++ s.lineEvent.toList := by rw [evaluateLine_lineEvent hu, hw, setWork_events]

/-- Settles O22: either terminator appends `State.lineEvent`, which reads only what the two states
have in common; an illegal configuration that the evaluation does not reach is no exception. -/
theorem eventDependsOnLineAlone : Obligations.EventDependsOnLineAlone := by
  intro s t s' t' hline hovf hparams hid hs ht
  have same : t.lineEvent = s.lineEvent := by
    simp only [State.lineEvent, hline, hovf, hparams, hid]
  exact ⟨s.lineEvent.toList, s.lineEvent.length_toList_le, terminate_events hs,
    same ▸ terminate_events ht⟩

end Sys2Proof.Machine
end

section
/-! The bytes the encoding classifies: the terminators and the digits of the two bases
(30_encoding.md R63, R66, R67). -/

namespace Sys2Proof.Machine

/-- Settles O3, by the two tests `decodeByte` makes. -/
theorem byteClasses : Obligations.ByteClasses := by
  intro b
  unfold decodeByte Config.lineFeed Config.carriageReturn
  by_cases hlf : b = 0x0A#8
  · simp [hlf]
  · by_cases hcr : b = 0x0D#8
    · simp [hcr]
    · simp [hlf, hcr]

theorem cksumDigit_eq_setCk (d : Nat) (s : State) : cksumDigit d s = setCk
    (if s.work.ck.pos = 0 then { s.work.ck with pos := 1, bad := true }
      else { s.work.ck with pos := s.work.ck.pos + 1, value := s.work.ck.value * 16 + d }) s := by
  unfold cksumDigit
  split
  · next h => simp [cksumIllFormed, h]
  · rfl

/-- Settles O34: every row is `cksumDigit` of its value. -/
theorem hexDigitsShiftIn : Obligations.HexDigitsShiftIn := by
  intro row hrow
  have table : decode .cksumChar [row.1] = .ok row.2.1 ∧ hexval row.1 = some row.2.2
      ∧ ∀ s, exec row.2.1 s = .next (cksumDigit row.2.2 s) := by
    fin_cases hrow <;> exact ⟨rfl, rfl, fun _ => rfl⟩
  obtain ⟨hdecode, hval, hexec⟩ := table
  refine ⟨hdecode, hval, fun s => ?_⟩
  rw [hexec, cksumDigit_eq_setCk]
  rfl

/-- Settles O51: every row is `litDigit` of its value. -/
theorem decimalDigitsAccumulate : Obligations.DecimalDigitsAccumulate := by
  intro row hrow
  have table : decode .valueChar [row.1] = .ok row.2.1 ∧ decval row.1 = some row.2.2
      ∧ ∀ s, exec row.2.1 s = .next (litDigit row.2.2 s) := by
    fin_cases hrow <;> exact ⟨rfl, rfl, fun _ => rfl⟩
  obtain ⟨hdecode, hval, hexec⟩ := table
  refine ⟨hdecode, hval, fun s => ?_⟩
  rw [hexec, litDigit_eq]
  rfl

end Sys2Proof.Machine
end

section
/-! The grammars of the checksum token and of the numeric literals (30_encoding.md R70 to R72): what
the pseudocode of R145, R176 and R178 accepts, and with which value. -/

namespace Sys2Proof.Machine

/-! ## Runs of digits -/

/-- The value of a run of digits, most significant first. -/
def numeral (base : Nat) (val : Byte → Option Nat) (ds : Token) : Nat :=
  Nat.ofDigits base (ds.reverse.map fun b => (val b).getD 0)

theorem numeral_cons (base : Nat) (val : Byte → Option Nat) (b : Byte) (ds : Token) :
    numeral base val (b :: ds)
      = (val b).getD 0 * base ^ ds.length + numeral base val ds := by
  simp only [numeral, List.reverse_cons, List.map_append, Nat.ofDigits_append, List.length_map,
    List.length_reverse, List.map_singleton, Nat.ofDigits_singleton]
  ring

/-- A function that multiplies by the base and adds the digit for each byte, and stops at the first
byte that is no digit, reads numerals. -/
theorem reads_numeral {base : Nat} {val : Byte → Option Nat} {read : Nat → Token → Option Nat}
    (nil : ∀ v, read v [] = some v)
    (cons : ∀ v b ds, read v (b :: ds) = (val b).bind fun d => read (v * base + d) ds)
    (ds : Token) (v w : Nat) : read v ds = some w ↔
      (∀ b ∈ ds, (val b).isSome = true) ∧ w = v * base ^ ds.length + numeral base val ds := by
  induction ds generalizing v with
  | nil => simpa [nil, numeral] using eq_comm
  | cons b ds ih =>
    rw [cons]
    cases hb : val b with
    | none => simp [hb]
    | some d =>
      have value : v * base ^ (ds.length + 1) + (d * base ^ ds.length + numeral base val ds)
          = (v * base + d) * base ^ ds.length + numeral base val ds := by ring
      rw [Option.bind_some, ih, List.forall_mem_cons, List.length_cons, numeral_cons, hb,
        Option.getD_some, value]
      simp

theorem hexDigits_cons_bind (v : Nat) (b : Byte) (r : Token) :
    hexDigits v (b :: r) = (hexval b).bind fun d => hexDigits (v * 16 + d) r := by
  rw [hexDigits_cons]
  cases hexval b <;> rfl

theorem hexDigits_eq_some_iff (ds : Token) (w : Nat) : hexDigits 0 ds = some w ↔
    (∀ b ∈ ds, (hexval b).isSome = true) ∧ w = numeral 16 hexval ds := by
  simpa using reads_numeral (read := hexDigits) (fun _ => rfl) hexDigits_cons_bind ds 0 w

theorem decDigits_cons (m : Nat) (b : Byte) (r : Token) :
    decDigits m (b :: r) = (decval b).bind fun d => decDigits (m * 10 + d) r := by
  rw [decDigits]
  cases decval b <;> rfl

theorem decDigits_eq_some_iff (ds : Token) (w : Nat) : decDigits 0 ds = some w ↔
    (∀ b ∈ ds, (decval b).isSome = true) ∧ w = numeral 10 decval ds := by
  simpa using reads_numeral (read := decDigits) (fun _ => rfl) decDigits_cons ds 0 w

/-! ## The checksum token -/

theorem parseCksum_eq_some_iff (t : Token) (v : Nat) : parseCksum t = some v ↔
    ∃ ds, ds ≠ [] ∧ t = Config.markByte :: ds ∧ hexDigits 0 ds = some v := by
  cases t with
  | nil => simp [parseCksum]
  | cons b ds =>
    by_cases hds : ds = []
    · simp [parseCksum, hds]
    · by_cases hb : b = Config.markByte <;> simp [parseCksum, hds, hb]

/-- Settles O36: after the mark `parse_cksum` reads a numeral. -/
theorem checksumTokenGrammar : Obligations.ChecksumTokenGrammar := by
  intro t v
  simp only [parseCksum_eq_some_iff, hexDigits_eq_some_iff]
  rfl

/-! ## The sign and the range -/

/-- An optional sign. -/
def IsSign (sign : Token) : Prop := sign = [] ∨ sign = [0x2B#8] ∨ sign = [0x2D#8]

/-- What `takeSign` takes off is an optional sign, and it says whether that is a minus. -/
theorem takeSign_eq {t body : Token} {neg : Bool} (h : takeSign t = (neg, body)) :
    ∃ sign, IsSign sign ∧ t = sign ++ body ∧ neg = decide (sign = [0x2D#8]) := by
  cases t with
  | nil =>
    cases h
    exact ⟨[], .inl rfl, rfl, rfl⟩
  | cons b r =>
    simp only [takeSign] at h
    split at h
    · next hb =>
      cases h
      exact ⟨[0x2B#8], .inr (.inl rfl), by rw [hb]; rfl, rfl⟩
    · split at h
      · next hb =>
        cases h
        exact ⟨[0x2D#8], .inr (.inr rfl), by rw [hb]; rfl, rfl⟩
      · cases h
        exact ⟨[], .inl rfl, rfl, rfl⟩

/-- A digit is no sign, so the sign before it is what `takeSign` takes off. -/
theorem takeSign_append {sign : Token} (hs : IsSign sign) {b : Byte}
    (hd : (decval b).isSome = true) (r : Token) :
    takeSign (sign ++ b :: r) = (decide (sign = [0x2D#8]), b :: r) := by
  obtain ⟨plus, minus, -⟩ := decval_sign
  have hplus : b ≠ Config.plusByte := by rintro rfl; simp [plus] at hd
  have hminus : b ≠ Config.minusByte := by rintro rfl; simp [minus] at hd
  obtain rfl | rfl | rfl := hs
  · simp [takeSign, hplus, hminus]
  · rfl
  · rfl

/-- The value of a literal: the numeral with its sign, where that is in range. -/
theorem inRange_applySign_eq_some_iff (sign : Token) (m : Nat) (v : Int) :
    inRange (applySign (decide (sign = [0x2D#8])) m) = some v ↔
      v = (if sign = [0x2D#8] then -1 else 1) * (m : Int) ∧ -2147483648 ≤ v ∧ v ≤ 2147483647 := by
  have signed : applySign (decide (sign = [0x2D#8])) m
      = (if sign = [0x2D#8] then -1 else 1) * (m : Int) := by
    by_cases h : sign = [0x2D#8] <;> simp [applySign, h]
  rw [signed, inRange, Config.intMin, Config.intMax]
  generalize (if sign = [0x2D#8] then -1 else 1) * (m : Int) = x
  split <;> simp only [reduceCtorEq, Option.some.injEq, false_iff] <;> omega

/-! ## The integer literal -/

theorem parseInt_eq_some_iff (t : Token) (v : Int) : parseInt t = some v ↔
    ∃ neg ds m, takeSign t = (neg, ds) ∧ ds ≠ [] ∧ decDigits 0 ds = some m
      ∧ inRange (applySign neg m) = some v := by
  unfold parseInt
  obtain ⟨neg, ds⟩ := takeSign t
  cases ds with
  | nil => simp
  | cons b r => cases hd : decDigits 0 (b :: r) <;> simp [hd]

/-- Settles O53, by the sign, the digits and the range. -/
theorem integerLiteralGrammar : Obligations.IntegerLiteralGrammar := by
  intro t v
  rw [parseInt_eq_some_iff]
  constructor
  · rintro ⟨neg, ds, m, hsign, hne, hm, hv⟩
    obtain ⟨sign, hs, ht, rfl⟩ := takeSign_eq hsign
    obtain ⟨hdigits, rfl⟩ := (decDigits_eq_some_iff ds m).mp hm
    exact ⟨sign, ds, ht, hs, hne, hdigits, (inRange_applySign_eq_some_iff ..).mp hv⟩
  · rintro ⟨sign, ds, rfl, hs, hne, hdigits, hv⟩
    obtain ⟨b, r, rfl⟩ := List.exists_cons_of_ne_nil hne
    exact ⟨_, b :: r, _, takeSign_append hs (hdigits b List.mem_cons_self) r, hne,
      (decDigits_eq_some_iff _ _).mpr ⟨hdigits, rfl⟩, (inRange_applySign_eq_some_iff ..).mpr hv⟩

/-! ## The decimal literal -/

/-- The bytes of a decimal literal after its sign: integer digits and, where there is a point, what
follows it. -/
def decimalBody (ip : Token) (frac : Option Token) : Token :=
  match frac with
  | none => ip
  | some fp => ip ++ Config.pointByte :: fp

theorem decimalBody_cons (b : Byte) (ip : Token) (frac : Option Token) :
    decimalBody (b :: ip) frac = b :: decimalBody ip frac := by
  cases frac <;> rfl

/-- The two forms of a decimal literal, without and with a point (R72). -/
theorem eq_append_decimalBody_iff (t sign ip fp : Token) :
    (∃ frac : Option Token, frac.getD [] = fp ∧ frac ≠ some [] ∧ t = sign ++ decimalBody ip frac) ↔
      (fp = [] ∧ t = sign ++ ip) ∨ (fp ≠ [] ∧ t = sign ++ ip ++ 0x2E#8 :: fp) := by
  rw [Option.exists, List.append_assoc]
  simp [decimalBody, Config.pointByte, eq_comm (a := [])]

/-- After the point the loop of R178 reads digits alone. -/
theorem decLoop_after_point (t : Token) (m nint nfrac : Nat) : decLoop m nint nfrac true t
    = (decDigits m t).map fun m' => (m', nint, nfrac + t.length, true) := by
  induction t generalizing m nfrac with
  | nil => rfl
  | cons b r ih =>
    rw [decDigits_cons, decLoop]
    cases hb : decval b with
    | none => simp
    | some d =>
      simp only [if_true, ih, Option.bind_some, List.length_cons, Nat.add_assoc, Nat.add_comm 1]

theorem decLoop_digit {b : Byte} {d : Nat} (hb : decval b = some d) (m nint : Nat) (r : Token) :
    decLoop m nint 0 false (b :: r) = decLoop (m * 10 + d) (nint + 1) 0 false r := by
  simp [decLoop, hb]

theorem decLoop_point (m nint : Nat) (r : Token) :
    decLoop m nint 0 false (Config.pointByte :: r) = decLoop m nint 0 true r := by
  simp [decLoop, decval_sign]

/-- The loop of R178 counts the digits of the two parts and reads them as one run. -/
theorem decLoop_decimalBody {ip : Token} {frac : Option Token} {m m' : Nat} (nint : Nat)
    (h : decDigits m (ip ++ frac.getD []) = some m') : decLoop m nint 0 false (decimalBody ip frac)
      = some (m', nint + ip.length, (frac.getD []).length, frac.isSome) := by
  induction ip generalizing m nint with
  | nil =>
    cases frac with
    | none => simpa [decimalBody, decLoop, decDigits] using h
    | some fp =>
      have digits : decDigits m fp = some m' := h
      simp [decimalBody, decLoop_point, decLoop_after_point, digits]
  | cons b ip ih =>
    rw [List.cons_append, decDigits_cons] at h
    obtain ⟨d, hb, h⟩ := Option.bind_eq_some_iff.mp h
    rw [decimalBody_cons, decLoop_digit hb, ih _ h, List.length_cons, Nat.add_assoc, Nat.add_comm 1]

/-- The loop of R178 completes on nothing else. -/
theorem decLoop_eq_some {t : Token} {m nint : Nat} {q : Nat × Nat × Nat × Bool}
    (h : decLoop m nint 0 false t = some q) :
    ∃ ip frac m', t = decimalBody ip frac ∧ decDigits m (ip ++ frac.getD []) = some m' := by
  induction t generalizing m nint with
  | nil => exact ⟨[], none, m, rfl, rfl⟩
  | cons b r ih =>
    cases hb : decval b with
    | some d =>
      rw [decLoop_digit hb] at h
      obtain ⟨ip, frac, m', rfl, hm⟩ := ih h
      exact ⟨b :: ip, frac, m', (decimalBody_cons ..).symm, by
        rw [List.cons_append, decDigits_cons, hb]; exact hm⟩
    | none =>
      by_cases hpoint : b = Config.pointByte
      · rw [hpoint, decLoop_point, decLoop_after_point] at h
        obtain ⟨m', hm, -⟩ := Option.map_eq_some_iff.mp h
        exact ⟨[], some r, m', by rw [hpoint]; rfl, hm⟩
      · simp [decLoop, hb, hpoint] at h

/-- `parse_dec` of a run of digits with or without a point in it: both parts must hold a digit, and the
value must be in range. -/
theorem parseDec_decimalBody {t ip : Token} {frac : Option Token} {neg : Bool} {m : Nat}
    (hsign : takeSign t = (neg, decimalBody ip frac))
    (hm : decDigits 0 (ip ++ frac.getD []) = some m) : parseDec t =
      if ip = [] ∨ frac = some [] then none
      else (inRange (applySign neg m)).map fun v => ⟨v, (frac.getD []).length⟩ := by
  have noFraction : (frac.isSome = true ∧ (frac.getD []).length = 0) ↔ frac = some [] := by
    cases frac <;> simp
  simp only [parseDec, hsign, decLoop_decimalBody 0 hm, noFraction, Nat.zero_add,
    ite_or, List.length_eq_zero_iff (l := ip)]

/-- `parse_dec` accepts nothing else. -/
theorem parseDec_eq_some {t : Token} {r : DecimalResult} (h : parseDec t = some r) :
    ∃ neg ip frac m, takeSign t = (neg, decimalBody ip frac)
      ∧ decDigits 0 (ip ++ frac.getD []) = some m := by
  cases hloop : decLoop 0 0 0 false (takeSign t).2 with
  | none => simp [parseDec, hloop] at h
  | some q =>
    obtain ⟨ip, frac, m, hbody, hm⟩ := decLoop_eq_some hloop
    exact ⟨(takeSign t).1, ip, frac, m, by rw [← hbody], hm⟩

/-- Settles O54, by the sign, the two runs of digits and the range. -/
theorem decimalLiteralGrammar : Obligations.DecimalLiteralGrammar := by
  intro t r
  constructor
  · intro h
    obtain ⟨neg, ip, frac, m, hsign, hm⟩ := parseDec_eq_some h
    rw [parseDec_decimalBody hsign hm] at h
    split at h
    · cases h
    · next hparts =>
      obtain ⟨v, hv, rfl⟩ := Option.map_eq_some_iff.mp h
      obtain ⟨hip, hfrac⟩ := not_or.mp hparts
      obtain ⟨sign, hs, ht, rfl⟩ := takeSign_eq hsign
      obtain ⟨hdigits, rfl⟩ := (decDigits_eq_some_iff _ m).mp hm
      exact ⟨sign, ip, frac.getD [], hs, hip,
        (eq_append_decimalBody_iff ..).mp ⟨frac, rfl, hfrac, ht⟩, hdigits, rfl,
        (inRange_applySign_eq_some_iff ..).mp hv⟩
  · rintro ⟨sign, ip, fp, hs, hip, ht, hdigits, hscale, hv⟩
    obtain ⟨frac, rfl, hfrac, rfl⟩ := (eq_append_decimalBody_iff ..).mpr ht
    have hm := (decDigits_eq_some_iff _ _).mpr ⟨hdigits, rfl⟩
    obtain ⟨b, ip, rfl⟩ := List.exists_cons_of_ne_nil hip
    have hsign := takeSign_append hs (hdigits b List.mem_cons_self) (decimalBody ip frac)
    rw [← decimalBody_cons] at hsign
    rw [parseDec_decimalBody hsign hm, if_neg (not_or.mpr ⟨hip, hfrac⟩),
      Option.map_eq_some_iff]
    exact ⟨r.sig, (inRange_applySign_eq_some_iff ..).mpr hv, by rw [← hscale]⟩

end Sys2Proof.Machine
end

section
/-! The output ports (30_encoding.md R78 to R81): every value an accepted update carries is in range of
its port, since a literal is in range and no longer than the line buffer. -/

namespace Sys2Proof.Machine

/-! ## The tokens of a line are no longer than the line -/

theorem foldl_splitStep_length_le (s : Token) {acc : List Token × Token} {n : Nat}
    (h : ∀ t ∈ acc.1 ++ [acc.2], t.length ≤ n) :
    ∀ t ∈ (s.foldl splitStep acc).1 ++ [(s.foldl splitStep acc).2], t.length ≤ n + s.length := by
  induction s generalizing acc n with
  | nil => exact h
  | cons b s ih =>
    rw [List.foldl_cons, List.length_cons, Nat.add_comm s.length, ← Nat.add_assoc]
    refine ih ?_
    simp only [List.forall_mem_append, List.forall_mem_singleton] at h
    obtain ⟨ended, cur⟩ := h
    have ended' : ∀ t ∈ acc.1, t.length ≤ n + 1 := fun t ht => (ended t ht).trans n.le_succ
    unfold splitStep
    split
    · simpa [or_imp, forall_and] using ⟨ended', cur.trans n.le_succ⟩
    · simpa [or_imp, forall_and] using ⟨ended', cur⟩

theorem length_le_of_mem_split {s t : Token} (h : t ∈ split s) : t.length ≤ s.length := by
  simpa using foldl_splitStep_length_le s (acc := ([], [])) (n := 0) (by simp) t h

theorem tokenAt_split_length_le (s : Token) (i : Nat) : (tokenAt (split s) i).length ≤ s.length := by
  unfold tokenAt
  by_cases h : i < (split s).length
  · rw [List.getD_eq_getElem _ _ h]
    exact length_le_of_mem_split (List.getElem_mem h)
  · rw [List.getD_eq_default _ _ (by omega)]
    exact Nat.zero_le _

theorem pairsOf_split_length_le {p : Params} {s : Token} {q : Token × Token}
    (h : q ∈ pairsOf p (split s)) : q.1.length ≤ s.length := by
  obtain ⟨i, -, rfl⟩ := List.mem_map.mp h
  exact tokenAt_split_length_le s _

theorem State.line_length_le (s : State) : s.line.length ≤ 255 := by
  rw [line_length]
  omega

/-! ## The values of an update are in range -/

theorem parseInt_fits {t : Token} {v : Int} (h : parseInt t = some v) :
    Config.intMin ≤ v ∧ v ≤ Config.intMax := by
  obtain ⟨-, -, -, -, -, -, -, range⟩ := (integerLiteralGrammar t v).mp h
  exact range

theorem parseDec_fits {t : Token} {d : DecimalResult} (ht : t.length ≤ 255)
    (h : parseDec t = some d) : d.fits = true := by
  obtain ⟨sign, ip, fp, -, -, hform, -, hscale, -, range⟩ := (decimalLiteralGrammar t d).mp h
  have hfp : fp.length ≤ t.length := by
    obtain ⟨rfl, -⟩ | ⟨-, rfl⟩ := hform
    · exact Nat.zero_le _
    · simp only [List.length_append, List.length_cons]
      omega
  simp only [DecimalResult.fits, Bool.and_eq_true, decide_eq_true_eq]
  exact ⟨range, by omega⟩

theorem Update.fits_iff (u : Update) : u.fits = true ↔
    (∀ v, u.pressure = some v → Config.intMin ≤ v ∧ v ≤ Config.intMax)
      ∧ (∀ d, u.temperature = some d → d.fits = true) ∧ (∀ d, u.humidity = some d → d.fits = true)
      ∧ ∀ d, u.co2 = some d → d.fits = true := by
  simp [Update.fits, Option.all_eq_true, and_assoc]

theorem Update.setPressure_fits {u : Update} {v : Int} (hu : u.fits = true)
    (hv : Config.intMin ≤ v ∧ v ≤ Config.intMax) : (u.setPressure v).fits = true := by
  rw [Update.fits_iff] at hu ⊢
  exact ⟨fun _ h => Option.some.inj h ▸ hv, hu.2⟩

theorem Update.setDec_fits {u : Update} {d : DecimalResult} (c : DecChannel) (hu : u.fits = true)
    (hd : d.fits = true) : (u.setDec c d).fits = true := by
  rw [Update.fits_iff] at hu ⊢
  obtain ⟨hp, ht, hh, hc⟩ := hu
  have new (e : DecimalResult) (h : some d = some e) : e.fits = true := Option.some.inj h ▸ hd
  cases c with
  | temperature => exact ⟨hp, new, hh, hc⟩
  | humidity => exact ⟨hp, ht, new, hc⟩
  | co2 => exact ⟨hp, ht, hh, new⟩

theorem fieldUpdate_fits {value unit : Token} {u u' : Update} (hv : value.length ≤ 255)
    (hu : u.fits = true) (h : fieldUpdate value unit u = some u') : u'.fits = true := by
  have decimal (c : DecChannel) (hc : (parseDec value).map (u.setDec c) = some u') :
      u'.fits = true := by
    obtain ⟨d, hd, rfl⟩ := Option.map_eq_some_iff.mp hc
    exact Update.setDec_fits c hu (parseDec_fits hv hd)
  unfold fieldUpdate at h
  split at h
  · obtain ⟨v, hp, rfl⟩ := Option.map_eq_some_iff.mp h
    exact Update.setPressure_fits hu (parseInt_fits hp)
  iterate 3 (split at h; · exact decimal _ h)
  exact Option.some.inj h ▸ hu

theorem decodePairs_fits {ps : List (Token × Token)} {u u' : Update}
    (hps : ∀ q ∈ ps, q.1.length ≤ 255) (hu : u.fits = true)
    (h : decodePairs u ps = .accept u') : u'.fits = true := by
  induction ps generalizing u with
  | nil =>
    cases h
    exact hu
  | cons q r ih =>
    obtain ⟨hq, hr⟩ := List.forall_mem_cons.mp hps
    simp only [decodePairs] at h
    split at h
    · cases h
    · next hf => exact ih hr (fieldUpdate_fits hq hu hf) h

/-- A line that `decode` accepts has the update of its pairs. -/
theorem decodeLine_eq_accept {p : Params} {cfg : Identity} {line : Token} {u : Update}
    (h : decodeLine p cfg line = .accept u) : decodeFields p (split line) = .accept u := by
  simp only [decodeLine] at h
  iterate 7 (split at h; · cases h)
  exact h

theorem lineEvent_fits {s : State} {u : Update} (h : s.lineEvent = some (.accept u)) :
    u.fits = true := by
  unfold State.lineEvent at h
  split at h
  · cases h
  · cases hd : decodeLine s.params s.identity s.line with
    | accept u' =>
      rw [hd] at h
      cases h
      exact decodePairs_fits (fun q hq => (pairsOf_split_length_le hq).trans s.line_length_le) rfl
        (decodeLine_eq_accept hd)
    | empty | reject => simp [hd, DecodeResult.event] at h

/-! ## The ports -/

theorem intPort_toInt {v : Int} (h : Config.intMin ≤ v ∧ v ≤ Config.intMax) (free : BitVec 32) :
    (intPort (some v) free).toInt = v := by
  obtain ⟨lo, hi⟩ := h
  unfold Config.intMin at lo
  unfold Config.intMax at hi
  exact BitVec.toInt_ofInt_eq_self (by decide) (by omega) (by omega)

theorem decimalPorts {d : DecimalResult} (h : d.fits = true) (freeSig : BitVec 32)
    (freeScale : BitVec 8) : (intPort (some d.sig) freeSig).toInt = d.sig
      ∧ (scalePort (some d.scale) freeScale).toNat = d.scale := by
  simp only [DecimalResult.fits, Bool.and_eq_true, decide_eq_true_eq] at h
  obtain ⟨range, scale⟩ := h
  exact ⟨intPort_toInt range freeSig, Nat.mod_eq_of_lt (by omega)⟩

/-- The bits of the present mask (R79). -/
theorem presentMask_bits (u : Update) : (presentMask u).getLsbD 0 = u.pressure.isSome
    ∧ (presentMask u).getLsbD 1 = u.temperature.isSome
    ∧ (presentMask u).getLsbD 2 = u.humidity.isSome
    ∧ (presentMask u).getLsbD 3 = u.co2.isSome := by
  unfold presentMask
  generalize u.pressure.isSome = p, u.temperature.isSome = t, u.humidity.isSome = h,
    u.co2.isSome = c
  revert p t h c
  decide

theorem presentMask_empty : presentMask {} = 0#4 := by decide

/-- A terminator that appends an event strobes it, and it is the event of the line. -/
theorem terminate_strobes {s t : State} {e : Event} (h : terminate s = .next t)
    (he : t.events = s.events ++ [e]) :
    s.lineEvent = some e ∧ t.out = driveEvent s.freeIx e := by
  obtain ⟨w, rfl⟩ := terminate_eq_next h
  have hline := (terminate_events h).symm.trans he
  have hw := (finishLine_events (s.setWork w)).symm.trans he
  simp only [setWork_events, setWork_work, List.append_cancel_left_eq,
    Option.toList_eq_singleton_iff] at hline hw
  exact ⟨hline, finishLine_strobes hw⟩

/-- Settles O31: a terminator drives the ports with its event, and each value fits its port. -/
theorem portsCarryTheEvent : Obligations.PortsCarryTheEvent := by
  intro s t i e hi h he
  have hterm : terminate s = .next t := by
    obtain rfl | rfl := hi <;> exact h
  obtain ⟨hline, hout⟩ := terminate_strobes hterm he
  rw [hout]
  refine ⟨rfl, ?_⟩
  cases e with
  | reject k => exact ⟨presentMask_empty, by cases k <;> rfl⟩
  | accept u =>
    obtain ⟨hp, ht, hh, hc⟩ := u.fits_iff.mp (lineEvent_fits hline)
    obtain ⟨bit0, bit1, bit2, bit3⟩ := presentMask_bits u
    refine ⟨rfl, bit0, bit1, bit2, bit3, fun v hv => ?_, fun d hd => ?_, fun d hd => ?_,
      fun d hd => ?_⟩
    · simpa [driveEvent, eventUpdate, hv] using intPort_toInt (hp v hv) _
    · simpa [driveEvent, eventUpdate, hd] using decimalPorts (ht d hd) _ _
    · simpa [driveEvent, eventUpdate, hd] using decimalPorts (hh d hd) _ _
    · simpa [driveEvent, eventUpdate, hd] using decimalPorts (hc d hd) _ _

end Sys2Proof.Machine
end

section
/-! The CRC of a byte and of a byte string (40_crc.md R101, R103, R105). One shift is the linear map
`crcShift` of the register with the message bit put into bit 15, so the bits that are to come, up to
sixteen of them, can be put into the register before the first shift. -/

namespace Sys2Proof.Machine

/-! ## One shift -/

/-- What a shift feeds back into the register (R100). -/
def crcFeedback (b : Bool) : Crc := if b then Config.crcPoly else 0#16

@[simp] theorem crcFeedback_false : crcFeedback false = 0#16 := rfl

theorem crcFeedback_xor (a b : Bool) :
    crcFeedback (xor a b) = crcFeedback a ^^^ crcFeedback b := by
  cases a <;> cases b <;> rfl

theorem crcBit_eq_shiftLeft_xor (c : Crc) (b : Bool) :
    crcBit c b = (c <<< 1) ^^^ crcFeedback (xor (c.getLsbD 15) b) := by
  rw [crcBit]
  cases xor (c.getLsbD 15) b
  · simp
  · rfl

theorem crcBit_xor (c d : Crc) (a b : Bool) :
    crcBit (c ^^^ d) (xor a b) = crcBit c a ^^^ crcBit d b := by
  have bits : xor (xor (c.getLsbD 15) (d.getLsbD 15)) (xor a b)
      = xor (xor (c.getLsbD 15) a) (xor (d.getLsbD 15) b) := by
    rw [Bool.xor_assoc, Bool.xor_assoc, Bool.xor_left_comm (d.getLsbD 15)]
  rw [crcBit_eq_shiftLeft_xor, crcBit_eq_shiftLeft_xor c, crcBit_eq_shiftLeft_xor d,
    BitVec.getLsbD_xor, bits, crcFeedback_xor, BitVec.shiftLeft_xor_distrib]
  ac_rfl

theorem crcShift_eq_crcBit (c : Crc) : crcShift c = crcBit c false := by
  simp [crcShift, crcBit]

theorem crcShift_xor (c d : Crc) : crcShift (c ^^^ d) = crcShift c ^^^ crcShift d := by
  rw [crcShift_eq_crcBit, crcShift_eq_crcBit, crcShift_eq_crcBit, ← crcBit_xor, Bool.xor_false]

theorem crcShift_of_msb_false {c : Crc} (h : c.getLsbD 15 = false) : crcShift c = c <<< 1 := by
  rw [crcShift, if_neg (by simp only [h, Bool.false_eq_true, not_false_eq_true])]

/-- A message bit as a register, in bit 15. -/
def msbOf (b : Bool) : Crc := if b then 0x8000#16 else 0x0000#16

theorem msbOf_getLsbD (b : Bool) (i : Nat) : (msbOf b).getLsbD i = (decide (i = 15) && b) := by
  cases b with
  | false => simp [msbOf]
  | true =>
    rw [msbOf, if_pos rfl, show 0x8000#16 = BitVec.twoPow 16 15 from rfl, BitVec.getLsbD_twoPow]
    simp [eq_comm]

theorem crcBit_eq_crcShift (c : Crc) (b : Bool) : crcBit c b = crcShift (c ^^^ msbOf b) := by
  have loaded : crcShift (msbOf b) = crcBit 0#16 b := by cases b <;> rfl
  rw [crcShift_xor, loaded, crcShift_eq_crcBit, ← crcBit_xor, Bool.false_xor, BitVec.xor_zero]

/-! ## Up to sixteen shifts -/

/-- Message bits in the register, the first of them in bit 15. -/
def topBits : List Bool → Crc
  | [] => 0x0000#16
  | b :: bs => msbOf b ^^^ (topBits bs >>> 1)

theorem topBits_getLsbD (bs : List Bool) {i : Nat} (hi : i < 16) :
    (topBits bs).getLsbD i = bs[15 - i]?.getD false := by
  induction bs generalizing i with
  | nil => simp [topBits]
  | cons b bs ih =>
    rw [topBits, BitVec.getLsbD_xor, msbOf_getLsbD, BitVec.getLsbD_ushiftRight]
    by_cases h : i = 15
    · subst h; simp
    · rw [ih (by omega), show 15 - i = 15 - (1 + i) + 1 by omega]
      simp [h]

/-- A bit below bit 15 can be put into the register one shift earlier, one place further left. -/
theorem crcShift_xor_ushiftRight (c : Crc) {x : Crc} (h : x.getLsbD 0 = false) :
    crcShift (c ^^^ (x >>> 1)) = crcShift c ^^^ x := by
  have back : (x >>> 1) <<< 1 = x := by
    ext i hi
    cases i with
    | zero => simpa using h.symm
    | succ i => simp [Nat.add_comm 1 i, hi]
  rw [crcShift_xor, crcShift_of_msb_false (c := x >>> 1) (by simp), back]

theorem crcBit_xor_topBits (c : Crc) (b : Bool) {bs : List Bool} (h : bs.length < 16) :
    crcBit c b ^^^ topBits bs = crcShift (c ^^^ topBits (b :: bs)) := by
  have low : (topBits bs).getLsbD 0 = false := by
    rw [topBits_getLsbD bs (by omega), List.getElem?_eq_none (by omega), Option.getD_none]
  rw [topBits, ← BitVec.xor_assoc, crcShift_xor_ushiftRight _ low, crcBit_eq_crcShift]

/-- The bits one by one, or all of them at once and then the shifts. -/
theorem foldl_crcBit (bs : List Bool) (c : Crc) (h : bs.length ≤ 16) :
    bs.foldl crcBit c = crcShift^[bs.length] (c ^^^ topBits bs) := by
  induction bs generalizing c with
  | nil => simp [topBits]
  | cons b bs ih =>
    rw [List.length_cons] at h
    rw [List.foldl_cons, ih _ (by omega), crcBit_xor_topBits c b (by omega), List.length_cons,
      Function.iterate_succ_apply]

/-! ## One byte -/

theorem crcByte_eq_foldl (c : Crc) (b : Byte) :
    crcByte c b = (messageBits [b]).foldl crcBit c := rfl

theorem crcByteHigh_eq_iterate (c : Crc) (b : Byte) :
    crcByteHigh c b = crcShift^[8] (c ^^^ (b.zeroExtend 16 <<< 8)) := rfl

theorem topBits_messageBits (b : Byte) : topBits (messageBits [b]) = b.zeroExtend 16 <<< 8 := by
  ext i hi
  rw [← BitVec.getLsbD_eq_getElem, ← BitVec.getLsbD_eq_getElem, topBits_getLsbD _ hi]
  interval_cases i <;> simp [messageBits]

/-- Settles O5: the eight bits of the byte are put into the register at once. -/
theorem crcByteHighByteForm : Obligations.CrcByteHighByteForm := by
  intro c b
  rw [crcByte_eq_foldl, foldl_crcBit _ _ (by simp [messageBits]), topBits_messageBits,
    crcByteHigh_eq_iterate]
  rfl

theorem iterate_crcShift_xor (n : Nat) (c d : Crc) :
    crcShift^[n] (c ^^^ d) = crcShift^[n] c ^^^ crcShift^[n] d := by
  induction n generalizing c d with
  | zero => rfl
  | succ n ih => simp only [Function.iterate_succ_apply, crcShift_xor, ih]

/-- Zero bits shifted out feed nothing back. -/
theorem iterate_crcShift_of_top_false {n : Nat} (hn : n ≤ 16) {c : Crc}
    (h : ∀ i, 16 ≤ i + n → c.getLsbD i = false) : crcShift^[n] c = c <<< n := by
  induction n generalizing c with
  | zero => simp
  | succ n ih =>
    have shifted : ∀ i, 16 ≤ i + n → (c <<< 1).getLsbD i = false := by
      intro i hi
      rw [BitVec.getLsbD_shiftLeft]
      by_cases h1 : 1 ≤ i
      · rw [h (i - 1) (by omega), Bool.and_false]
      · simp [show i = 0 by omega]
    rw [Function.iterate_succ_apply, crcShift_of_msb_false (h 15 (by omega)),
      ih (by omega) shifted, ← BitVec.shiftLeft_add, Nat.add_comm]

/-- The two bytes of a register, loaded one below the other. -/
theorem crc_eq_xor_bytes (c : Crc) : c = (c.extractLsb' 0 8).zeroExtend 16
    ^^^ ((c.extractLsb' 8 8).zeroExtend 16 <<< 8) := by
  ext i hi
  interval_cases i <;> simp

theorem loadByte_xor (a b : Byte) : (a ^^^ b).zeroExtend 16 <<< 8
    = (a.zeroExtend 16 <<< 8 ^^^ b.zeroExtend 16 <<< 8 : Crc) := by
  rw [← BitVec.shiftLeft_xor_distrib, ← BitVec.setWidth_xor]

/-- Settles O6: the low byte of the register is shifted out of eight zero places, so only the xor of
the high byte with the message byte feeds back. -/
theorem crcTableForm : Obligations.CrcTableForm := by
  intro c b
  have low : crcShift^[8] ((c.extractLsb' 0 8).zeroExtend 16) = c <<< 8 := by
    rw [iterate_crcShift_of_top_false (by omega)
      fun i hi => by simp [show ¬i < 8 by omega]]
    ext i hi
    by_cases h : i < 8
    · simp [h]
    · simp [h, show i - 8 < 8 by omega, show i - 8 < 16 by omega]
  rw [crcByteTable, crcTable, crcByteHighByteForm, crcByteHighByteForm, crcByteHigh_eq_iterate,
    crcByteHigh_eq_iterate, BitVec.zero_xor, ← low, ← iterate_crcShift_xor, loadByte_xor,
    ← BitVec.xor_assoc, ← crc_eq_xor_bytes]

/-! ## A byte string -/

theorem crc16_eq_foldl (s : Token) : crc16 s = s.foldl crcByte 0x0000#16 := by
  rw [crc16, Config.crcXorOut, Config.crcInit, BitVec.xor_zero]

theorem crcByte_zero_zero : crcByte 0x0000#16 0x00#8 = 0x0000#16 := by decide

theorem crc16_zeros_append (n : Nat) (s : Token) :
    crc16 (List.replicate n 0x00#8 ++ s) = crc16 s := by
  induction n with
  | zero => rfl
  | succ n ih =>
    rw [← ih, crc16_eq_foldl, crc16_eq_foldl, List.replicate_succ, List.cons_append,
      List.foldl_cons, crcByte_zero_zero]

theorem crcByte_xor (c d : Crc) (a b : Byte) :
    crcByte (c ^^^ d) (a ^^^ b) = crcByte c a ^^^ crcByte d b := by
  simp only [crcByteHighByteForm _ _, crcByteHigh_eq_iterate, ← iterate_crcShift_xor,
    loadByte_xor]
  ac_rfl

theorem foldl_crcByte_xor {s t : Token} (h : s.length = t.length) (c d : Crc) :
    (xorBytes s t).foldl crcByte (c ^^^ d) = s.foldl crcByte c ^^^ t.foldl crcByte d := by
  induction s generalizing t c d with
  | nil =>
    rw [List.eq_nil_of_length_eq_zero h.symm]
    rfl
  | cons a s ih =>
    obtain ⟨b, t, rfl⟩ := List.exists_cons_of_length_eq_add_one h.symm
    rw [xorBytes, List.zipWith_cons_cons, List.foldl_cons, crcByte_xor]
    exact ih (Nat.succ.inj h) _ _

theorem crc16_xorBytes {s t : Token} (h : s.length = t.length) :
    crc16 (xorBytes s t) = crc16 s ^^^ crc16 t := by
  simpa only [crc16_eq_foldl, BitVec.xor_zero] using foldl_crcByte_xor h 0x0000#16 0x0000#16

theorem crc16_append (s t : Token) : crc16 (s ++ t) = t.foldl crcByte (crc16 s) := by
  rw [crc16_eq_foldl, crc16_eq_foldl, List.foldl_append]

/-- The high byte of the register, put into it, leaves the low byte alone. -/
theorem crcByte_highByte (c : Crc) : crcByte c (c.extractLsb' 8 8) = c <<< 8 := by
  rw [crcTableForm, crcByteTable, BitVec.xor_self, crcTable, crcByte_zero_zero, BitVec.xor_zero]

theorem crc16_append_crc16 (s : Token) :
    crc16 (s ++ [(crc16 s).extractLsb' 8 8, (crc16 s).extractLsb' 0 8]) = 0x0000#16 := by
  have high : ((crc16 s) <<< 8).extractLsb' 8 8 = (crc16 s).extractLsb' 0 8 := by
    ext i hi
    simp [show 8 + i < 16 by omega, show i < 16 by omega]
  rw [crc16_append, List.foldl_cons, crcByte_highByte, List.foldl_cons, ← high, crcByte_highByte,
    List.foldl_nil]
  simp [← BitVec.shiftLeft_add]

/-- Settles O7: the residue by the table form, the other laws by the fold over the string. -/
theorem crcLaws : Obligations.CrcLaws :=
  ⟨crc16_zeros_append, fun _ _ h => crc16_xorBytes h, crc16_append, crc16_append_crc16⟩

end Sys2Proof.Machine
end

section
/-! Short bursts change the CRC (40_crc.md R106). -/

namespace Sys2Proof.Machine

/-- The constant term of the polynomial keeps in bit 0 what a shift takes out of bit 15. -/
theorem crcShift_getLsbD_zero (c : Crc) : (crcShift c).getLsbD 0 = c.getLsbD 15 := by
  cases h : c.getLsbD 15 with
  | false => rw [crcShift_of_msb_false h]; simp
  | true => rw [crcShift, if_pos h, BitVec.getLsbD_xor]; simp [Config.crcPoly]

theorem crcShift_injective : Function.Injective crcShift := by
  intro c d h
  have top : c.getLsbD 15 = d.getLsbD 15 := by
    rw [← crcShift_getLsbD_zero, h, crcShift_getLsbD_zero]
  have rest : c <<< 1 = d <<< 1 := by
    rwa [crcShift_eq_crcBit, crcShift_eq_crcBit, crcBit_eq_shiftLeft_xor, crcBit_eq_shiftLeft_xor,
      top, BitVec.xor_left_inj] at h
  apply BitVec.eq_of_getLsbD_eq
  intro i hi
  by_cases hi15 : i = 15
  · rw [hi15, top]
  · simpa [show i + 1 < 16 by omega, hi] using congrArg (fun x : Crc => x.getLsbD (i + 1)) rest

theorem foldl_crcBit_injective (bs : List Bool) :
    Function.Injective fun c => bs.foldl crcBit c := by
  induction bs with
  | nil => exact Function.injective_id
  | cons b bs ih =>
    intro c d h
    have shifted := ih h
    rw [crcBit_eq_crcShift, crcBit_eq_crcShift] at shifted
    exact (BitVec.xor_left_inj _).mp (crcShift_injective shifted)

theorem topBits_injective {bs cs : List Bool} (hlen : bs.length = cs.length)
    (hshort : bs.length ≤ 16) (h : topBits bs = topBits cs) : bs = cs := by
  apply List.ext_getElem hlen
  intro i hb hc
  have bit := congrArg (fun x : Crc => x.getLsbD (15 - i)) h
  simpa only [topBits_getLsbD _ (show 15 - i < 16 by omega), show 15 - (15 - i) = i by omega,
    List.getElem?_eq_getElem hb, List.getElem?_eq_getElem hc, Option.getD_some] using bit

/-- At most sixteen bits can be read back from the register they were shifted into. -/
theorem foldl_crcBit_injective_bits {bs cs : List Bool} (c : Crc) (hlen : bs.length = cs.length)
    (hshort : bs.length ≤ 16) (h : bs.foldl crcBit c = cs.foldl crcBit c) : bs = cs := by
  rw [foldl_crcBit bs c hshort, foldl_crcBit cs c (hlen ▸ hshort), hlen] at h
  exact topBits_injective hlen hshort
    ((BitVec.xor_right_inj _).mp (crcShift_injective.iterate _ h))

theorem messageBits_cons (b : Byte) (s : Token) :
    messageBits (b :: s) = messageBits [b] ++ messageBits s := by
  simp [messageBits]

theorem length_messageBits (s : Token) : (messageBits s).length = 8 * s.length := by
  simp [messageBits, Nat.mul_comm]

theorem messageBits_singleton_inj {a b : Byte} (h : messageBits [a] = messageBits [b]) :
    a = b := by
  have loaded : ∀ b : Byte, (topBits (messageBits [b])).extractLsb' 8 8 = b := by
    intro b
    rw [topBits_messageBits]
    ext i hi
    simp [show 8 + i < 16 by omega, hi]
  rw [← loaded a, h, loaded b]

theorem messageBits_injective : Function.Injective messageBits := by
  intro s t h
  have hlen : s.length = t.length := by
    have bits := congrArg List.length h
    rw [length_messageBits, length_messageBits] at bits
    omega
  induction s generalizing t with
  | nil => exact (List.eq_nil_of_length_eq_zero hlen.symm).symm
  | cons a s ih =>
    obtain ⟨b, t, rfl⟩ := List.exists_cons_of_length_eq_add_one hlen.symm
    rw [messageBits_cons, messageBits_cons b] at h
    obtain ⟨hfirst, hrest⟩ := List.append_inj h rfl
    rw [messageBits_singleton_inj hfirst, ih hrest (Nat.succ.inj hlen)]

theorem crc16_eq_foldl_crcBit (s : Token) :
    crc16 s = (messageBits s).foldl crcBit 0x0000#16 := by
  rw [crc16_eq_foldl, messageBits, List.foldl_flatMap]
  simp only [List.foldl_map]
  rfl

/-- A list is what stands before a window of `n` places, in it, and after it. -/
theorem take_append_window {α : Type} (l : List α) (k n : Nat) :
    l.take k ++ ((l.drop k).take n ++ l.drop (k + n)) = l := by
  rw [← List.drop_drop, List.take_append_drop, List.take_append_drop]

/-- Before the window the registers are the same; the window can be read back from the register it
leaves, and no bit after it makes different registers the same. -/
theorem foldl_crcBit_injective_window {bs cs : List Bool} {k : Nat} {c : Crc}
    (hlen : bs.length = cs.length) (before : bs.take k = cs.take k)
    (after : bs.drop (k + 16) = cs.drop (k + 16))
    (h : bs.foldl crcBit c = cs.foldl crcBit c) : bs = cs := by
  have inside : (bs.drop k).take 16 = (cs.drop k).take 16 := by
    rw [← take_append_window bs k 16, ← take_append_window cs k 16, List.foldl_append,
      List.foldl_append, List.foldl_append, List.foldl_append, before, after] at h
    exact foldl_crcBit_injective_bits _ (by simp [hlen]) (List.length_take_le ..)
      (foldl_crcBit_injective _ h)
  rw [← take_append_window bs k 16, before, inside, after, take_append_window]

/-- Settles O9: bits that agree outside the window and give one register agree in it. -/
theorem crcDetectsShortBursts : Obligations.CrcDetectsShortBursts := by
  intro s t k hlen hne hwindow hcrc
  have outside : ∀ j, j < k ∨ k + 16 ≤ j → (messageBits s)[j]? = (messageBits t)[j]? := by
    intro j hj
    by_contra hdiff
    have := hwindow j hdiff
    omega
  have before : (messageBits s).take k = (messageBits t).take k := by
    refine List.ext_getElem? fun j => ?_
    rw [List.getElem?_take, List.getElem?_take]
    split
    · next hj => exact outside j (.inl hj)
    · rfl
  have after : (messageBits s).drop (k + 16) = (messageBits t).drop (k + 16) := by
    refine List.ext_getElem? fun j => ?_
    rw [List.getElem?_drop, List.getElem?_drop, outside _ (.inr (by omega))]
  rw [crc16_eq_foldl_crcBit, crc16_eq_foldl_crcBit] at hcrc
  refine hne (messageBits_injective (foldl_crcBit_injective_window ?_ before after hcrc))
  rw [length_messageBits, length_messageBits, hlen]

end Sys2Proof.Machine
end

section
/-! The CRC as a polynomial remainder over GF(2), and what divisibility by x + 1 gives
(40_crc.md R104, R106). -/

namespace Sys2Proof.Machine

open Polynomial

/-- A bit as a coefficient. -/
noncomputable def bitPoly (b : Bool) : Polynomial (ZMod 2) := C (if b then 1 else 0)

@[simp] theorem bitPoly_false : bitPoly false = 0 := C_0

@[simp] theorem bitPoly_true : bitPoly true = 1 := C_1

theorem bitPoly_xor (a b : Bool) : bitPoly (xor a b) = bitPoly a + bitPoly b := by
  cases a <;> cases b <;> simp [CharTwo.add_self_eq_zero]

/-- Bits as a polynomial over GF(2), highest power first (R104). -/
noncomputable def bitsPoly (bs : List Bool) : Polynomial (ZMod 2) :=
  bs.foldl (fun p b => p * X + bitPoly b) 0

theorem bitsPoly_append_singleton (bs : List Bool) (b : Bool) :
    bitsPoly (bs ++ [b]) = bitsPoly bs * X + bitPoly b := by
  rw [bitsPoly, List.foldl_append]
  rfl

theorem bitsPoly_degree_lt (bs : List Bool) : (bitsPoly bs).degree < bs.length := by
  rw [degree_lt_iff_coeff_zero]
  induction bs using List.reverseRecOn with
  | nil => exact fun m _ => coeff_zero m
  | append_singleton bs b ih =>
    intro m hm
    rw [List.length_append, List.length_singleton] at hm
    obtain ⟨m, rfl⟩ := Nat.exists_eq_add_of_le' (show 1 ≤ m by omega)
    rw [bitsPoly_append_singleton, coeff_add, coeff_mul_X, bitPoly, coeff_C_succ,
      ih m (by omega), add_zero]

/-! ## The register as a polynomial -/

/-- The register read with bit 15 as the coefficient of x^15 (R104). -/
noncomputable def crcPolynomial (c : Crc) : Polynomial (ZMod 2) := bitsPoly (crcBits c)

theorem crcPolynomial_degree_lt (c : Crc) : (crcPolynomial c).degree < 16 :=
  bitsPoly_degree_lt (crcBits c)

theorem crcPolynomial_eq_sum (c : Crc) :
    crcPolynomial c = ∑ i ∈ Finset.range 16, bitPoly (c.getLsbD i) * X ^ i := by
  simp only [crcPolynomial, bitsPoly, crcBits, List.map, List.foldl, Finset.sum_range_succ,
    Finset.sum_range_zero]
  ring

theorem crcPolynomial_zero : crcPolynomial 0x0000#16 = 0 := by
  simp [crcPolynomial_eq_sum]

theorem crcPolynomial_xor (c d : Crc) :
    crcPolynomial (c ^^^ d) = crcPolynomial c + crcPolynomial d := by
  simp only [crcPolynomial_eq_sum, BitVec.getLsbD_xor, bitPoly_xor, add_mul,
    Finset.sum_add_distrib]

/-- A shift to the left multiplies by x and loses the coefficient of x^16. -/
theorem crcPolynomial_shiftLeft (c : Crc) :
    crcPolynomial (c <<< 1) + bitPoly (c.getLsbD 15) * X ^ 16 = crcPolynomial c * X := by
  have shifted : crcPolynomial (c <<< 1)
      = ∑ i ∈ Finset.range 15, bitPoly (c.getLsbD i) * X ^ (i + 1) := by
    rw [crcPolynomial_eq_sum, Finset.sum_range_succ']
    have low : (c <<< 1).getLsbD 0 = false := by simp
    rw [low, bitPoly_false, zero_mul, add_zero]
    refine Finset.sum_congr rfl fun i hi => ?_
    have hi15 : i + 1 < 16 := Nat.succ_lt_succ (Finset.mem_range.mp hi)
    simp [BitVec.getLsbD_shiftLeft, hi15, -BitVec.getLsbD_eq_getElem]
  rw [shifted, crcPolynomial_eq_sum, Finset.sum_mul, Finset.sum_range_succ _ 15]
  simp only [mul_assoc, ← pow_succ]

/-- G(x) of R104. -/
noncomputable def crcGenerator : Polynomial (ZMod 2) := X ^ 16 + X ^ 12 + X ^ 5 + 1

theorem crcGenerator_monic : crcGenerator.Monic := by
  unfold crcGenerator
  monicity!

theorem crcGenerator_degree : crcGenerator.degree = 16 := by
  unfold crcGenerator
  compute_degree!

theorem crcPolynomial_poly : crcPolynomial Config.crcPoly = crcGenerator + X ^ 16 := by
  have low : crcPolynomial Config.crcPoly = 1 + X ^ 5 + X ^ 12 := by
    simp [crcPolynomial_eq_sum, Finset.sum_range_succ, Config.crcPoly]
  rw [low, crcGenerator]
  linear_combination -(X ^ 16) * (CharTwo.two_eq_zero (R := Polynomial (ZMod 2)))

theorem crcPolynomial_feedback (b : Bool) :
    crcPolynomial (crcFeedback b) = bitPoly b * (crcGenerator + X ^ 16) := by
  cases b with
  | false => rw [crcFeedback_false, crcPolynomial_zero, bitPoly_false, zero_mul]
  | true => rw [bitPoly_true, one_mul, ← crcPolynomial_poly]; rfl

/-- A shift multiplies by x, adds the message bit at x^16, and takes off a multiple of G(x). -/
theorem crcPolynomial_crcBit (c : Crc) (b : Bool) :
    crcPolynomial (crcBit c b) = crcPolynomial c * X + bitPoly b * X ^ 16
      + bitPoly (xor (c.getLsbD 15) b) * crcGenerator := by
  rw [crcBit_eq_shiftLeft_xor, crcPolynomial_xor, crcPolynomial_feedback,
    ← crcPolynomial_shiftLeft, bitPoly_xor]
  ring

theorem crcGenerator_dvd_sub_foldl (bs : List Bool) :
    crcGenerator ∣ bitsPoly bs * X ^ 16 - crcPolynomial (bs.foldl crcBit 0x0000#16) := by
  induction bs using List.reverseRecOn with
  | nil => simp [bitsPoly, crcPolynomial_zero]
  | append_singleton bs b ih =>
    obtain ⟨q, hq⟩ := ih
    rw [List.foldl_append, List.foldl_cons, List.foldl_nil, crcPolynomial_crcBit,
      bitsPoly_append_singleton]
    exact ⟨q * X - bitPoly (xor ((bs.foldl crcBit 0x0000#16).getLsbD 15) b),
      by linear_combination X * hq⟩

theorem bitsPoly_modByMonic_crcGenerator (s : Token) :
    (bitsPoly (messageBits s) * X ^ 16) %ₘ crcGenerator = crcPolynomial (crc16 s) := by
  rw [modByMonic_eq_of_dvd_sub crcGenerator_monic (crcGenerator_dvd_sub_foldl _),
    ← crc16_eq_foldl_crcBit, modByMonic_eq_self_iff crcGenerator_monic, crcGenerator_degree]
  exact crcPolynomial_degree_lt _

/-- Settles O8: every shift keeps the register congruent to the message read so far, times x^16. -/
theorem crcIsPolynomialRemainder : Obligations.CrcIsPolynomialRemainder :=
  bitsPoly_modByMonic_crcGenerator

/-! ## Odd numbers of differing bits -/

theorem crcGenerator_eval_one : crcGenerator.eval 1 = 0 := by
  simp [crcGenerator, CharTwo.add_self_eq_zero]

theorem bitsPoly_eval_one (bs : List Bool) :
    (bitsPoly bs).eval 1 = ((bs.filter fun b => b).length : ZMod 2) := by
  induction bs using List.reverseRecOn with
  | nil => simp [bitsPoly]
  | append_singleton bs b ih =>
    rw [bitsPoly_append_singleton, eval_add, eval_mul, eval_X, mul_one, ih]
    cases b <;> simp

/-- x + 1 divides G(x), so a message of CRC zero has an even number of ones. -/
theorem even_ones_of_crc16_eq_zero {s : Token} (h : crc16 s = 0x0000#16) :
    Even ((messageBits s).filter fun b => b).length := by
  obtain ⟨q, hq⟩ := crcGenerator_dvd_sub_foldl (messageBits s)
  have atOne := congrArg (eval 1) hq
  rw [← crc16_eq_foldl_crcBit, h, crcPolynomial_zero] at atOne
  simpa [crcGenerator_eval_one, bitsPoly_eval_one, ZMod.natCast_eq_zero_iff_even] using atOne

/-- Settles O10: the bits that differ are a message of their own, whose CRC is the xor of the
two. -/
theorem crcDetectsOddErrors : Obligations.CrcDetectsOddErrors := by
  intro s t hlen hodd hcrc
  have hzero : crc16 (xorBytes s t) = 0x0000#16 := by
    rw [crc16_xorBytes hlen, hcrc, BitVec.xor_self]
  exact (Nat.not_even_iff.mpr hodd) (even_ones_of_crc16_eq_zero hzero)

end Sys2Proof.Machine
end

section
/-! The line parser (41_line_parser.md): what `DATA` and the two terminators do to the line under
assembly, which operation an edge runs, and the output of a whole session (R120 to R126). -/

namespace Sys2Proof.Machine

/-! ## The edge of an accepted byte (R40, R120) -/

theorem acceptedByte_eq_some {p : PortSample} {b : Byte} (h : acceptedByte p = some b) :
    p.rst = false ∧ p.inValid = true ∧ p.inReady = true ∧ p.inData = b := by
  unfold acceptedByte at h
  split at h
  · next hacc => exact ⟨hacc.1, hacc.2.1, hacc.2.2, Option.some.inj h⟩
  · cases h

theorem PortSample.read_of_accepted {p : PortSample} {b : Byte} (h : acceptedByte p = some b) :
    p.read = .byte b := by
  obtain ⟨hrst, hvalid, hready, hb⟩ := acceptedByte_eq_some h
  simp [PortSample.read, hrst, hvalid, hready, hb]

theorem PortSample.read_of_acceptedByte_none {p : PortSample} (hrst : p.rst = false)
    (h : acceptedByte p = none) : p.read = .idle := by
  refine PortSample.read_of_not_accepted hrst (Bool.eq_false_iff.mpr fun hacc => ?_)
  obtain ⟨hvalid, hready⟩ := Bool.and_eq_true_iff.mp hacc
  simp [acceptedByte, hrst, hvalid, hready] at h

section
variable {s : State} {p : PortSample} {r : List PortSample}

theorem sampled_of_cons (hrx : s.rx = p :: r) :
    sampled s = strobeEnd ((s.setRx r).setReady p.inReady) := by
  rw [sampled, nextEdge_of_cons hrx]

theorem sampled_rx_of_cons (hrx : s.rx = p :: r) : (sampled s).rx = r := by
  rw [sampled_of_cons hrx]
  rfl

theorem step_of_accepted {b : Byte} (hrx : s.rx = p :: r) (hb : acceptedByte p = some b) :
    step s = exec (decodeByte b) (sampled s) :=
  step_of_byte ((congrArg Prod.fst (nextEdge_of_cons hrx)).trans (PortSample.read_of_accepted hb))

theorem step_of_not_accepted (hrx : s.rx = p :: r) (hrst : p.rst = false)
    (hb : acceptedByte p = none) : step s = .next (sampled s) :=
  step_of_idle ((congrArg Prod.fst (nextEdge_of_cons hrx)).trans
    (PortSample.read_of_acceptedByte_none hrst hb))

end

/-- Taking the sample leaves the line under assembly and the configuration alone. -/
theorem sampled_line_frame (s : State) : (sampled s).len = s.len ∧ (sampled s).ovf = s.ovf
    ∧ (sampled s).cfgLegal = s.cfgLegal := by
  obtain ⟨r, b, h⟩ := sampled_eq s
  rw [h]
  exact ⟨rfl, rfl, rfl⟩

theorem exec_of_terminator {b : Byte} (h : isTerminator b = true) :
    exec (decodeByte b) = terminate := by
  obtain hd | ⟨-, hb⟩ := exec_decodeByte_cases b
  · exact hd
  · simp [h] at hb

theorem exec_of_not_terminator {b : Byte} (h : isTerminator b = false) :
    exec (decodeByte b) = execData b := by
  simp only [isTerminator, Bool.or_eq_false_iff, beq_eq_false_iff_ne] at h
  obtain ⟨hlf, hcr⟩ := h
  rw [decodeByte, if_neg hlf, if_neg hcr]
  rfl

/-- Settles O13: the sample is read as its byte, and the sampled state is the one written out. -/
theorem stepRunsDecodedByte : Obligations.StepRunsDecodedByte := by
  intro s p r hrx hrst hvalid hready
  have hb : acceptedByte p = some p.inData := by simp [acceptedByte, hrst, hvalid, hready]
  rw [step_of_accepted hrx hb, sampled_of_cons hrx, hready]
  rfl

/-! ## The end of a line (R122) -/

/-- The block at the beginning of a line, the event of the line before, if it had one, emitted. -/
def endLine (e : Option Event) (s : State) : State :=
  { e.elim s (emit · s) with len := 0#8, ovf := false, work := {} }

theorem finishLine_setWork (s : State) (w : Work) :
    finishLine (s.setWork w) = endLine w.verdict s := by
  unfold finishLine
  rw [setWork_work]
  cases w.verdict <;> rfl

theorem endLine_events (e : Option Event) (s : State) :
    (endLine e s).events = s.events ++ e.toList := by
  cases e
  · exact (List.append_nil _).symm
  · rfl

theorem endLine_rx (e : Option Event) (s : State) : (endLine e s).rx = s.rx := by
  cases e <;> rfl

/-- The evaluation of a line can only stop at an illegal configuration (U6), and not even there
where the line did not fit or is empty. -/
theorem evaluateLine_completes {s : State}
    (h : s.ovf = true ∨ s.len = 0#8 ∨ s.cfgLegal = true) :
    ∃ w, evaluateLine s = .next (s.setWork w) := by
  by_cases hc : s.cfgLegal = true
  · exact evaluateLine_runsOnWork.completes (.inr hc)
  · by_cases ho : s.ovf = true
    · exact ⟨_, by rw [evaluateLine, if_pos ho]; rfl⟩
    · exact ⟨{}, by rw [evaluateLine, if_neg ho, if_pos (by simpa [ho, hc] using h)]; rfl⟩

/-- What a terminator does: the event of the line is emitted, and the next line begins. -/
theorem terminate_eq {s : State} (h : s.ovf = true ∨ s.len = 0#8 ∨ s.cfgLegal = true) :
    terminate s = .next (endLine s.lineEvent s) := by
  obtain ⟨w, hw⟩ := evaluateLine_completes h
  have hv : w.verdict = s.lineEvent := evaluateLine_lineEvent hw
  rw [terminate, hw, andThen_next, finishLine_setWork, hv]

theorem lineEvent_of_overlong {s : State} (h : s.ovf = true) :
    s.lineEvent = some (.reject .malformed) := by
  rw [State.lineEvent, if_pos h]

theorem lineEvent_of_fits {s : State} (h : s.ovf = false) :
    s.lineEvent = (decodeLine s.params s.identity s.line).event := by
  rw [State.lineEvent, h]
  rfl

theorem lineEvent_of_empty {s : State} (ho : s.ovf = false) (hl : s.len = 0#8) :
    s.lineEvent = none := by
  rw [lineEvent_of_fits ho, (line_eq_nil_iff s).mpr hl]
  rfl

/-- Every line but the empty one has an event (R122, R202). -/
theorem decodeLine_event_of_ne_nil {line : Token} (p : Params) (cfg : Identity)
    (hline : line ≠ []) : ∃ e, (decodeLine p cfg line).event = some e := by
  have fields : ∃ e, (decodeFields p (split line)).event = some e := by
    obtain ⟨u, hd⟩ | hd := decodePairs_cases (pairsOf p (split line)) {}
    · exact ⟨.accept u, by rw [decodeFields, hd]; rfl⟩
    · exact ⟨.reject .malformed, by rw [decodeFields, hd]; rfl⟩
  by_cases hn : (split line).length < Config.minTokens
  · exact ⟨_, by rw [decodeLine_of_short _ _ hline hn]; rfl⟩
  cases hck : parseCksum (lastToken (split line)) with
  | none => exact ⟨_, by rw [decodeLine_of_no_cksum _ _ hline hck]; rfl⟩
  | some v =>
    rw [decodeLine_of_cksum _ _ hline hn hck, decodeIdentity, decodeType]
    split
    · exact ⟨_, rfl⟩
    split
    · exact ⟨_, rfl⟩
    split
    · exact ⟨_, rfl⟩
    split
    · exact ⟨_, rfl⟩
    · exact fields

/-- Settles O28: in each case a terminator answers `endLine` of the event of the line. -/
theorem terminatorEmitsDecode : Obligations.TerminatorEmitsDecode := by
  intro s i hi
  have hexec : exec i s = terminate s := by
    obtain rfl | rfl := hi <;> rfl
  rw [hexec]
  refine ⟨fun ho => ?_, fun ho hl => ?_, fun ho hl hc => ?_⟩
  · rw [terminate_eq (.inl ho), lineEvent_of_overlong ho]
    rfl
  · rw [terminate_eq (.inr (.inl hl)), lineEvent_of_empty ho hl, endLine, ← ho, ← hl]
    rfl
  · obtain ⟨e, he⟩ := decodeLine_event_of_ne_nil s.params s.identity (mt (line_eq_nil_iff s).mp hl)
    refine ⟨e, he, ?_⟩
    rw [terminate_eq (.inr (.inr hc)), lineEvent_of_fits ho, he]
    rfl

/-! ## A session as a function of its input (R124) -/

/-- The block has emitted what the complete lines `acc.1` give after the events `past`, and it holds
the unterminated piece `acc.2` as far as it fits. -/
structure State.InSession (s : State) (p : Params) (cfg : Identity) (past : List Event)
    (acc : List Token × Token) : Prop where
  cfgLegal : s.cfgLegal = true
  params : s.params = p
  identity : s.identity = cfg
  lbCanonical : Memory.wf s.lb = true
  events : s.events = past ++ acc.1.flatMap (lineOutput p cfg)
  line : s.line = acc.2.take 255
  ovf : s.ovf = true ↔ 255 < acc.2.length

namespace State.InSession

variable {s : State} {p : Params} {cfg : Identity} {past : List Event} {acc : List Token × Token}

theorem len (h : s.InSession p cfg past acc) : s.len.toNat = min acc.2.length 255 := by
  rw [← line_length, h.line, List.length_take, min_comm]

theorem sampled (h : s.InSession p cfg past acc) : (sampled s).InSession p cfg past acc := by
  obtain ⟨r, b, hs⟩ := sampled_eq s
  rw [hs]
  exact ⟨h.cfgLegal, h.params, h.identity, h.lbCanonical, h.events, h.line, h.ovf⟩

/-- The event of the piece, were it terminated now, is what R124 gives the line. -/
theorem lineEvent (h : s.InSession p cfg past acc) :
    s.lineEvent.toList = lineOutput p cfg acc.2 := by
  unfold lineOutput
  by_cases hlen : acc.2.length > Config.maxLine
  · rw [lineEvent_of_overlong (h.ovf.mpr hlen), if_pos hlen]
    rfl
  · have hline : s.line = acc.2 := h.line.trans (List.take_of_length_le (not_lt.mp hlen))
    rw [lineEvent_of_fits (Bool.eq_false_iff.mpr (mt h.ovf.mp hlen)), if_neg hlen, hline, h.params,
      h.identity]

/-- A terminator completes the piece (R122). -/
theorem endLine (h : s.InSession p cfg past acc) :
    (endLine s.lineEvent s).InSession p cfg past (acc.1 ++ [acc.2], []) where
  cfgLegal := by cases s.lineEvent <;> exact h.cfgLegal
  params := by cases s.lineEvent <;> exact h.params
  identity := by cases s.lineEvent <;> exact h.identity
  lbCanonical := by cases s.lineEvent <;> exact h.lbCanonical
  events := by simp [endLine_events, h.events, h.lineEvent]
  line := (line_eq_nil_iff _).mpr rfl
  ovf := by simp [Machine.endLine]

/-- A byte below the capacity is stored (R121). -/
theorem pushByte (h : s.InSession p cfg past acc) (b : Byte) (hr : s.hasRoom = true) :
    (pushByte b s).InSession p cfg past (acc.1, acc.2 ++ [b]) := by
  have hlen : acc.2.length < 255 := by
    have hroom := (hasRoom_iff s).mp hr
    have hmin := h.len
    omega
  exact {
    cfgLegal := h.cfgLegal
    params := h.params
    identity := h.identity
    lbCanonical := pushByte_lb_wf h.lbCanonical hr
    events := h.events
    line := by
      rw [pushByte_line h.lbCanonical hr, h.line, List.take_of_length_le hlen.le,
        List.take_of_length_le (by simpa using hlen)]
    ovf := h.ovf.trans (by simp only [List.length_append, List.length_singleton]; omega) }

/-- A byte at the capacity is discarded (R121). -/
theorem setOvf (h : s.InSession p cfg past acc) (b : Byte) (hr : s.hasRoom = false) :
    (setOvf s).InSession p cfg past (acc.1, acc.2 ++ [b]) := by
  have hlen : 255 ≤ acc.2.length := by
    have hfull : s.len.toNat = 255 := by rw [len_eq_of_full hr]; rfl
    have hmin := h.len
    omega
  exact {
    cfgLegal := h.cfgLegal
    params := h.params
    identity := h.identity
    lbCanonical := h.lbCanonical
    events := h.events
    line := by rw [List.take_append_of_le_length hlen]; exact h.line
    ovf := iff_of_true rfl (by simp only [List.length_append, List.length_singleton]; omega) }

/-- An accepted byte is one step of the cut. -/
theorem exec (h : s.InSession p cfg past acc) (b : Byte) :
    ∃ t, exec (decodeByte b) s = .next t ∧ t.rx = s.rx
      ∧ t.InSession p cfg past (cutStep acc b) := by
  unfold cutStep
  cases hb : isTerminator b with
  | true =>
    rw [exec_of_terminator hb]
    exact ⟨_, terminate_eq (.inr (.inr h.cfgLegal)), endLine_rx _ _, h.endLine⟩
  | false =>
    rw [exec_of_not_terminator hb]
    cases hr : s.hasRoom with
    | true => exact ⟨_, execData_of_room hr, rfl, h.pushByte b hr⟩
    | false => exact ⟨_, execData_of_full hr, rfl, h.setOvf b hr⟩

/-- An edge without a reset advances the cut by the byte it accepts, if it accepts one. -/
theorem step (h : s.InSession p cfg past acc) {q : PortSample} {r : List PortSample}
    (hrx : s.rx = q :: r) (hrst : q.rst = false) :
    ∃ t, step s = .next t ∧ t.rx = r
      ∧ t.InSession p cfg past ((acceptedByte q).toList.foldl cutStep acc) := by
  have hr := sampled_rx_of_cons hrx
  cases hb : acceptedByte q with
  | none => exact ⟨_, step_of_not_accepted hrx hrst hb, hr, h.sampled⟩
  | some b =>
    rw [step_of_accepted hrx hb, ← hr]
    exact h.sampled.exec b

/-- Any edges without a reset advance the cut by the bytes they accept. -/
theorem run (h : s.InSession p cfg past acc) {edges rest : List PortSample}
    (hrx : s.rx = edges ++ rest) (hrst : ∀ q ∈ edges, q.rst = false) :
    ∃ t, Host.Core.run core edges.length s = .next t ∧ t.rx = rest
      ∧ t.InSession p cfg past ((accepted edges).foldl cutStep acc) := by
  induction edges generalizing s acc with
  | nil => exact ⟨s, rfl, hrx, h⟩
  | cons q edges ih =>
    obtain ⟨hq, hedges⟩ := List.forall_mem_cons.mp hrst
    obtain ⟨u, hstep, hurx, hu⟩ := h.step hrx hq
    obtain ⟨t, hrun, htrx, ht⟩ := ih hu hurx hedges
    have hcore : core.step s = .next u := hstep
    have hbytes : accepted (q :: edges) = (acceptedByte q).toList ++ accepted edges := by
      cases hb : acceptedByte q <;> simp [accepted, hb]
    refine ⟨t, ?_, htrx, by rwa [hbytes, List.foldl_append]⟩
    simp only [List.length_cons, Host.Core.run, hcore, hrun]

end State.InSession

theorem inSession_of_lineStart {s : State} (hstart : s.atLineStart = true)
    (hc : s.cfgLegal = true) (hw : Memory.wf s.lb = true) :
    s.InSession s.params s.identity s.events ([], []) := by
  obtain ⟨hl, ho⟩ : s.len = 0#8 ∧ s.ovf = false := by simpa [State.atLineStart] using hstart
  exact {
    cfgLegal := hc
    params := rfl
    identity := rfl
    lbCanonical := hw
    events := by simp
    line := (line_eq_nil_iff s).mpr hl
    ovf := by simp [ho] }

/-- Settles O30, by induction over the edges with the cut of the bytes accepted so far. -/
theorem sessionOutputOfInput : Obligations.SessionOutputOfInput := by
  intro s edges rest hrx hrst hstart hc hw
  obtain ⟨t, hrun, htrx, ht⟩ := (inSession_of_lineStart hstart hc hw).run hrx hrst
  exact ⟨t, hrun, ht.events, ht.len, ht.line, ht.ovf, htrx⟩

/-! ## The single rules -/

/-- Settles O17: a reset edge loads a legal configuration, and a byte is stored, discarded or ends a
line, whose evaluation completes with a legal configuration. -/
theorem stepIsTotal : Obligations.StepIsTotal := by
  intro s hc hreset
  cases he : (nextEdge s).1 with
  | reset c =>
    obtain ⟨p, r, hrx, hrst, rfl⟩ := rx_of_reset he
    have hlegal : p.cfg.legal = true := hreset p (by rw [hrx]; rfl) hrst
    exact ⟨_, (step_of_reset he).trans (if_pos hlegal)⟩
  | idle => exact ⟨_, step_of_idle he⟩
  | byte b =>
    rw [step_of_byte he]
    obtain hd | ⟨hd, -⟩ := exec_decodeByte_cases b <;> rw [hd]
    · obtain ⟨-, -, hlegal⟩ := sampled_line_frame s
      exact ⟨_, terminate_eq (.inr (.inr (hlegal.trans hc)))⟩
    · cases hr : (sampled s).hasRoom with
      | true => exact ⟨_, execData_of_room hr⟩
      | false => exact ⟨_, execData_of_full hr⟩

/-- `DATA` writes the line buffer, `LEN` and `OVF` alone. -/
theorem execData_eq_next {b : Byte} {s t : State} (h : execData b s = .next t) :
    ∃ m n o, t = { s with lb := m, len := n, ovf := o } := by
  cases hr : s.hasRoom with
  | true => exact ⟨_, _, _, (Host.Outcome.next.inj ((execData_of_room hr).symm.trans h)).symm⟩
  | false => exact ⟨_, _, _, (Host.Outcome.next.inj ((execData_of_full hr).symm.trans h)).symm⟩

/-- Below the byte level a next state differs in the intermediate values alone. -/
theorem exec_eq_setWork {i : Instr} {s t : State} (hb : i.context ≠ .byte)
    (h : exec i s = .next t) : ∃ w, t = s.setWork w := by
  by_cases hid : ∃ product serial, i = .idCheck product serial
  · obtain ⟨product, serial, rfl⟩ := hid
    exact (execIdCheck_runsOnWork product serial).eq_setWork h
  · exact (exec_runsOnWork hb (by simpa using hid)).eq_setWork h

theorem context_eq_byte {i : Instr} (h : i.context = .byte) :
    i = .lf ∨ i = .cr ∨ ∃ b, i = .data b := by
  cases i <;> simp_all [Instr.context]

/-- Settles O23: a terminator ends the line, `DATA` writes the line buffer, `LEN` or `OVF`, and
every other operation the intermediate values. -/
theorem noOperationReconfigures : Obligations.NoOperationReconfigures := by
  intro i s t h
  have ended (ht : terminate s = .next t) : t.cfgProd = s.cfgProd ∧ t.cfgSer = s.cfgSer
      ∧ t.params = s.params ∧ t.rx = s.rx ∧ t.inReady = s.inReady ∧ ∀ a, t.load a = s.load a := by
    obtain ⟨w, rfl⟩ := terminate_eq_next ht
    simp [State.load]
  by_cases hb : i.context = .byte
  · obtain rfl | rfl | ⟨b, rfl⟩ := context_eq_byte hb
    · simpa using ended h
    · simpa using ended h
    · obtain ⟨m, n, o, rfl⟩ := execData_eq_next h
      exact ⟨rfl, rfl, rfl, rfl, rfl, fun hne => absurd rfl (hne b)⟩
  · obtain ⟨w, rfl⟩ := exec_eq_setWork hb h
    exact ⟨rfl, rfl, rfl, rfl, rfl, fun _ _ => rfl⟩

/-- Settles O27: with room the next state is `pushByte`, at the capacity `setOvf`. -/
theorem dataStoresOrOverflows : Obligations.DataStoresOrOverflows := by
  intro s b _ hw
  refine ⟨fun hlen => ?_, fun hlen => ?_⟩
  · have hr := (hasRoom_iff s).mpr hlen
    refine ⟨pushByte b s, execData_of_room hr, rfl, ?_, Memory.read_write_same hw _ b,
      fun a ha => Memory.read_write_other hw b ha, pushByte_line hw hr⟩
    rw [pushByte, incLen_len]
    bv_omega
  · have hr : s.hasRoom = false := by simp [State.hasRoom, hlen, Config.maxLine]
    exact execData_of_full hr

theorem step_of_terminator {s : State} {p : PortSample} {r : List PortSample} (hrx : s.rx = p :: r)
    (hp : acceptedByte p = some 0x0D#8 ∨ acceptedByte p = some 0x0A#8) :
    step s = terminate (sampled s) := by
  obtain hp | hp := hp <;> rw [step_of_accepted hrx hp] <;> rfl

/-- A terminator leaves the beginning of a line and takes no sample itself. -/
theorem terminate_lineStart {s t : State} (h : terminate s = .next t) :
    t.len = 0#8 ∧ t.ovf = false ∧ t.rx = s.rx := by
  obtain ⟨w, rfl⟩ := terminate_eq_next h
  simp

/-- Settles O29: the first terminator leaves the beginning of a line, and the line that the second
one ends there is empty. -/
theorem secondTerminatorIsSilent : Obligations.SecondTerminatorIsSilent := by
  intro s t u a b r hrx ha hb ht hu
  rw [step_of_terminator hrx ha] at ht
  obtain ⟨hlen, hovf, htrx⟩ := terminate_lineStart ht
  obtain ⟨hlen', hovf', -⟩ := sampled_line_frame t
  obtain ⟨hvalid, hevents⟩ := sampled_frame t
  rw [step_of_terminator (htrx.trans (sampled_rx_of_cons hrx)) hb,
    terminate_eq (.inr (.inl (hlen'.trans hlen))),
    lineEvent_of_empty (hovf'.trans hovf) (hlen'.trans hlen)] at hu
  rw [← Host.Outcome.next.inj hu]
  exact ⟨hevents, hvalid, rfl, rfl⟩

/-- Settles O40: each row raises its rejection or, for the empty line, does nothing. -/
theorem frameRowsDecide : Obligations.FrameRowsDecide := fun _ _ => ⟨rfl, rfl, rfl, rfl⟩

end Sys2Proof.Machine
end

section
/-! The tokens of a completed line (42_frame_validator.md R142): `split` is the library's `splitOn` at
the comma, which gives how it acts on a line that is put together from tokens and, the other way
round, how a line is put together from its tokens. -/

namespace Sys2Proof.Machine

/-- What the loop of R142 has ended, followed by what it is still to end, is the split with the token
under assembly in front. -/
theorem foldl_splitStep_eq_splitOn (s : Token) (ended : List Token) (cur : Token) :
    (s.foldl splitStep (ended, cur)).1 ++ [(s.foldl splitStep (ended, cur)).2]
      = ended ++ (s.splitOn Config.delimByte).modifyHead (cur ++ ·) := by
  induction s generalizing ended cur with
  | nil => simp
  | cons b s ih =>
    rw [List.foldl_cons, List.splitOn_cons_eq_if_modifyHead]
    by_cases hb : b = Config.delimByte
    · have id_head : (s.splitOn Config.delimByte).modifyHead (fun t => t)
          = s.splitOn Config.delimByte := congrFun List.modifyHead_id _
      simp [splitStep, hb, ih, id_head]
    · simp [splitStep, hb, ih, Function.comp_def]

theorem split_eq_splitOn (s : Token) : split s = s.splitOn Config.delimByte := by
  calc split s
      = [] ++ (s.splitOn Config.delimByte).modifyHead ([] ++ ·) :=
        foldl_splitStep_eq_splitOn s [] []
    _ = s.splitOn Config.delimByte := congrFun List.modifyHead_id _

theorem split_ne_nil (s : Token) : split s ≠ [] := by
  rw [split_eq_splitOn]
  exact List.splitOn_ne_nil _ s

/-- A delimiter anywhere in a line cuts it in two lines. -/
theorem split_append_delim (s t : Token) :
    split (s ++ Config.delimByte :: t) = split s ++ split t := by
  simp only [split_eq_splitOn, List.splitOn_append_cons_self]

theorem split_of_not_mem {t : Token} (h : Config.delimByte ∉ t) : split t = [t] := by
  rw [split_eq_splitOn, List.splitOn_eq_singleton h]

/-- The first token of a line. -/
theorem split_token_append {t : Token} (h : Config.delimByte ∉ t) (s : Token) :
    split (t ++ Config.delimByte :: s) = t :: split s := by
  rw [split_append_delim, split_of_not_mem h, List.singleton_append]

theorem split_cons (b : Byte) (s : Token) : split (b :: s) =
    if b = Config.delimByte then [] :: split s else (split s).modifyHead (b :: ·) := by
  simp only [split_eq_splitOn, List.splitOn_cons_eq_if_modifyHead, beq_iff_eq]

theorem length_split (s : Token) : (split s).length = 1 + s.count Config.delimByte := by
  induction s with
  | nil => rfl
  | cons b s ih =>
    rw [split_cons]
    by_cases hb : b = Config.delimByte
    · rw [if_pos hb, List.length_cons, ih, hb, List.count_cons_self]
      omega
    · rw [if_neg hb, List.length_modifyHead, ih, List.count_cons_of_ne hb]

theorem delimByte_not_mem_of_mem_split {s t : Token} (h : t ∈ split s) : Config.delimByte ∉ t := by
  induction s generalizing t with
  | nil => simp_all [split]
  | cons b s ih =>
    rw [split_cons] at h
    obtain ⟨u, us, hu⟩ := List.exists_cons_of_ne_nil (split_ne_nil s)
    rw [hu] at ih h
    by_cases hb : b = Config.delimByte
    · obtain rfl | h := List.mem_cons.mp (if_pos hb ▸ h)
      · exact List.not_mem_nil
      · exact ih h
    · obtain rfl | h := List.mem_cons.mp (if_neg hb ▸ h)
      · exact List.not_mem_cons_of_ne_of_not_mem (Ne.symm hb) (ih List.mem_cons_self)
      · exact ih (List.mem_cons_of_mem _ h)

theorem intercalate_split (s : Token) : [Config.delimByte].intercalate (split s) = s := by
  rw [split_eq_splitOn, List.intercalate_splitOn]

/-- Settles O32: `split` is `splitOn`, which the join undoes; the count and the tokens by induction
over the line. -/
theorem splitCutsAtCommas : Obligations.SplitCutsAtCommas := fun s =>
  ⟨intercalate_split s, length_split s, fun _ => delimByte_not_mem_of_mem_split⟩

/-- Settles O33: `DELIM` is `endToken`, and the loop over the line is `runSplit_eq`. -/
theorem delimSplitsTheLine : Obligations.DelimSplitsTheLine := fun s => ⟨rfl, runSplit_eq s⟩

end Sys2Proof.Machine
end

section
/-! The single operations of the frame validator: the mark, the checksum token and its evaluation in
16 bits (42_frame_validator.md R145, R146), the covered span and the two comparisons (R147 to R150). -/

namespace Sys2Proof.Machine

/-! ## The checksum token -/

/-- Settles O35, by the position of the mark. -/
theorem markOpensChecksum : Obligations.MarkOpensChecksum := by
  intro s
  change execMark s = _
  unfold execMark
  by_cases hp : s.work.ck.pos = 0
  · rw [if_pos hp, if_pos hp, hp]
    rfl
  · rw [if_neg hp, if_neg hp]
    rfl

theorem execCksum_of_some {digits : Token} {v : Nat}
    (h : parseCksum (Config.markByte :: digits) = some v) (s : State) :
    execCksum digits s = .next (s.setWork { s.work with ck := {}, parsed := v }) := by
  rw [execCksum_eq, h]

theorem execCksum_of_none {digits : Token} (h : parseCksum (Config.markByte :: digits) = none)
    (s : State) : execCksum digits s = .next (raise .malformed (setCk {} s)) := by
  rw [execCksum_eq, h]

/-- Settles O37, by what `CKSUM` leaves for either answer of `parse_cksum`. -/
theorem cksumParsesTheToken : Obligations.CksumParsesTheToken := by
  intro s digits
  cases h : parseCksum (0x2A#8 :: digits) with
  | some v => exact execCksum_of_some h s
  | none => exact execCksum_of_none h s

/-! ## Sixteen bits of the checksum (R146) -/

/-- The accumulator and the flag hold the value `v`: its low 16 bits, and whether it has more. -/
def AccHi.Holds (r : AccHi) (v : Nat) : Prop :=
  r.acc.toNat = v % 65536 ∧ (r.hi = true ↔ 65536 ≤ v)

/-- A digit shifted in below the low 12 bits. -/
theorem toNat_extract_low_append (a : BitVec 16) (d : BitVec 4) :
    (a.extractLsb' 0 12 ++ d).toNat = a.toNat % 4096 * 16 + d.toNat := by
  rw [BitVec.toNat_append, ← Nat.shiftLeft_add_eq_or_of_lt d.isLt, Nat.shiftLeft_eq,
    BitVec.extractLsb'_toNat]
  simp

/-- The top digit is 0 where the value has at most 12 bits. -/
theorem extract_top_beq_zero (a : BitVec 16) :
    (a.extractLsb' 12 4 == 0#4) = decide (a.toNat < 4096) := by
  rw [Bool.eq_iff_iff, beq_iff_eq, decide_eq_true_iff, ← BitVec.toNat_inj,
    BitVec.extractLsb'_toNat, Nat.shiftRight_eq_div_pow]
  simp only [BitVec.toNat_ofNat]
  omega

theorem AccHi.Holds.accDigit {r : AccHi} {v : Nat} (h : r.Holds v) (d : BitVec 4) :
    (accDigit r d).Holds (v * 16 + d.toNat) := by
  obtain ⟨hacc, hhi⟩ := h
  refine ⟨?_, ?_⟩
  · rw [Machine.accDigit, toNat_extract_low_append, hacc]
    omega
  · simp only [Machine.accDigit, extract_top_beq_zero, Bool.or_eq_true, hhi, hacc,
      Bool.not_eq_true', decide_eq_false_iff_not]
    omega

theorem holds_foldl_accDigit (ds : List (BitVec 4)) {r : AccHi} {v : Nat} (h : r.Holds v) :
    (ds.foldl accDigit r).Holds (ds.foldl (fun v d => v * 16 + d.toNat) v) := by
  induction ds generalizing r v with
  | nil => exact h
  | cons d ds ih => exact ih (h.accDigit d)

theorem accDigits_holds_digitsValue (ds : List (BitVec 4)) :
    (accDigits ds).Holds (digitsValue ds) :=
  holds_foldl_accDigit ds ⟨rfl, by decide⟩

theorem AccHi.Holds.eq_iff {r : AccHi} {v : Nat} (h : r.Holds v) (c : Crc) :
    v = c.toNat ↔ r.hi = false ∧ r.acc = c := by
  obtain ⟨hacc, hhi⟩ := h
  rw [← BitVec.toNat_inj, hacc, ← Bool.not_eq_true, hhi]
  omega

/-- Settles O12: the accumulator and the flag hold the value of the digits at every digit. -/
theorem sixteenBitChecksumComparison : Obligations.SixteenBitChecksumComparison := fun ds crc =>
  (accDigits_holds_digitsValue ds).eq_iff crc

/-! ## The covered span and the CRC (R147 to R149) -/

/-- Settles O38: `CRC_CHECK` is the one test. -/
theorem crcCheckCompares : Obligations.CrcCheckCompares := fun _ =>
  ⟨fun h => if_pos h, fun h => if_neg h⟩

/-- Settles O46: five bytes from the end of the line stand `h.length - 5` bytes after the mark, or
`3 - h.length` bytes before the comma. -/
theorem spanByDigitCount : Obligations.SpanByDigitCount := by
  intro pre h hpre hne
  have span : coveredSpan Params.decided (pre ++ [0x2C#8, 0x2A#8] ++ h)
      = (pre ++ [0x2C#8, 0x2A#8] ++ h).take (pre.length + 2 + h.length - 5) := by
    rw [coveredSpan, List.length_append, List.length_append]
    rfl
  have before (n : Nat) (hn : n ≤ pre.length) :
      (pre ++ [0x2C#8, 0x2A#8] ++ h).take n = pre.take n := by
    rw [List.append_assoc, List.take_append_of_le_length hn]
  rw [span]
  refine ⟨fun hk => ?_, fun hk => ?_, fun hk => ?_, fun hk => ?_, fun hk => ?_⟩
  · rw [hk, before _ (by omega)]
    rfl
  · rw [hk, before _ (by omega)]
    rfl
  · rw [hk, before _ (by omega)]
    exact List.take_length
  · rw [hk, List.append_assoc, show pre.length + 2 + 4 - 5 = pre.length + 1 by omega,
      List.take_length_add_append]
    rfl
  · have last : pre.length + 2 + h.length - 5
        = (pre ++ [0x2C#8, 0x2A#8]).length + (h.length - 5) := by
      simp only [List.length_append, List.length_cons, List.length_nil]
      omega
    rw [last, List.take_length_add_append]

/-! ## The identity (R150) -/

theorem differs_expected_iff (r : IdRegs) (t : Token) : differs r.expected t = true ↔
    r.en = true ∧ r.bytes.toList.take r.len.toNat ≠ t := by
  cases hen : r.en <;> simp [differs, IdRegs.expected, hen]

theorem execIdCheck_of_legal {s : State} (h : s.cfgLegal = true) (product serial : Token) :
    execIdCheck product serial s =
      if differs s.cfgProd.expected product = true ∨ differs s.cfgSer.expected serial = true then
        .next (raise .identityMismatch s)
      else .next s := by
  rw [execIdCheck, if_pos h]
  by_cases hp : differs s.cfgProd.expected product = true <;> simp [hp]

/-- Settles O39, by what it means that an expectation differs. -/
theorem idCheckCompares : Obligations.IdCheckCompares := by
  intro s product serial
  refine ⟨fun hc => ⟨fun hdiff => ?_, fun hp hs => ?_⟩, fun hc => ?_⟩
  · refine (execIdCheck_of_legal hc product serial).trans (if_pos ?_)
    rwa [differs_expected_iff, differs_expected_iff]
  · refine (execIdCheck_of_legal hc product serial).trans (if_neg ?_)
    rw [differs_expected_iff, differs_expected_iff]
    grind
  · exact if_neg (by simp [hc])

end Sys2Proof.Machine
end

section
/-! Decoding the bytes of an operation (30_encoding.md R63, R64, R82). -/

namespace Sys2Proof

theorem decodeByte_of_not_terminator {b : Byte} (h : isTerminator b = false) :
    decodeByte b = .data b := by
  obtain ⟨hlf, hcr⟩ : b ≠ Config.lineFeed ∧ b ≠ Config.carriageReturn := by
    simpa [isTerminator] using h
  rw [decodeByte, if_neg hlf, if_neg hcr]

theorem decodePair_of_not_unitLabel {unit : Token} (h : isUnitLabel unit = false) (value : Token) :
    decodePair value unit = .unitOther value unit := by
  obtain ⟨⟨⟨hpa, hc⟩, hrh⟩, hppm⟩ : ((unit ≠ Config.labelPa ∧ unit ≠ Config.labelC)
      ∧ unit ≠ Config.labelRh) ∧ unit ≠ Config.labelPpm := by simpa [isUnitLabel] using h
  rw [decodePair, if_neg hpa, if_neg hc, if_neg hrh, if_neg hppm]

/-- A value token and a unit token, joined by the delimiter, are the pair. -/
theorem decode_pair {value unit : Token} (hv : isToken value = true) (hu : isToken unit = true) :
    decode .pair (value ++ Config.delimByte :: unit) = .ok (decodePair value unit) := by
  simp only [decode, twoTokens_append hv hu]

/-- Settles O1, by the rows of the table: a row with fixed bytes decodes by computation, a row with
operands by what cutting and comparing its tokens answers. -/
theorem decodeEncodeRoundTrip : Obligations.DecodeEncodeRoundTrip := by
  intro i hwf hc
  cases i
  case frameOverlong | frameEmpty | frameShort | crcCheck => exact absurd rfl hc
  case data b =>
    exact congrArg Except.ok (decodeByte_of_not_terminator (by simpa [Instr.wf] using hwf))
  case cksum digits => simp only [Instr.context, encode, decode, decodeLastToken, if_true]
  case idCheck product serial =>
    obtain ⟨hp, hs⟩ := Bool.and_eq_true_iff.mp hwf
    simp only [Instr.context, encode, decode, twoTokens_append hp hs]
  case frameOther lineType =>
    obtain ⟨-, hne⟩ := Bool.and_eq_true_iff.mp hwf
    have hne : lineType ≠ Config.typeD := by simpa using hne
    exact congrArg Except.ok (if_neg hne)
  case unitPa value | unitC value | unitRh value | unitPpm value =>
    exact decode_pair hwf (by decide)
  case unitOther value unit =>
    obtain ⟨htokens, hlabel⟩ := Bool.and_eq_true_iff.mp hwf
    obtain ⟨hv, hu⟩ := Bool.and_eq_true_iff.mp htokens
    exact (decode_pair hv hu).trans
      (congrArg Except.ok (decodePair_of_not_unitLabel (by simpa using hlabel) value))
  all_goals rfl

end Sys2Proof
end

section
/-! The rejections of a completed line in the order of 60_exceptions.md R205: an evaluation that
completes ends the line with its event, and it completes where the configuration is legal or an
earlier check than that of the identity has rejected the line. -/

namespace Sys2Proof.Machine

/-! ## The terminator and the event -/

/-- An evaluation that completes ends the line with the event of the line. -/
theorem terminate_of_evaluateLine {s t : State} (h : evaluateLine s = .next t) :
    terminate s = .next (endLine s.lineEvent s) := by
  obtain ⟨w, rfl⟩ := evaluateLine_runsOnWork.eq_setWork h
  have hv : w.verdict = s.lineEvent := evaluateLine_lineEvent h
  rw [terminate, h, andThen_next, finishLine_setWork, hv]

theorem lineGives_of_evaluateLine {s t : State} {e : Event} (h : evaluateLine s = .next t)
    (he : s.lineEvent = some e) : s.lineGives e := by
  have hterm := terminate_of_evaluateLine h
  rw [he] at hterm
  exact ⟨_, hterm, hterm, rfl, rfl, rfl, rfl, rfl, rfl⟩

/-- With a legal configuration a line that fits gives what `decode` gives (R122, R140). -/
theorem lineGives_of_cfgLegal {s : State} {e : Event} (hfits : s.ovf = false)
    (hc : s.cfgLegal = true) (he : (decodeLine s.params s.identity s.line).event = some e) :
    s.lineGives e := by
  obtain ⟨w, hw⟩ := evaluateLine_completes (.inr (.inr hc))
  exact lineGives_of_evaluateLine hw ((lineEvent_of_fits hfits).trans he)

/-! ## Lines of six tokens and more -/

theorem ne_nil_of_minTokens {line : Token} (h : Config.minTokens ≤ (split line).length) :
    line ≠ [] := by
  rintro rfl
  simp [split, Config.minTokens] at h

theorem minTokens_le_iff (line : Token) :
    Config.minTokens ≤ (split line).length ↔ 5 ≤ line.count Config.delimByte := by
  rw [length_split, Config.minTokens]
  omega

theorem evaluateLine_of_minTokens {s : State} (hfits : s.ovf = false)
    (hn : Config.minTokens ≤ (split s.line).length) :
    evaluateLine s = runChecks (s.setWork { tokens := split s.line }) := by
  have hlen := mt (line_eq_nil_iff s).mpr (ne_nil_of_minTokens hn)
  rw [evaluateLine_of_fits hfits hlen, runTokens, setWork_work, if_neg (not_lt.mpr hn)]

/-- Settles O41: with fewer than five commas there are fewer than six tokens, and `FRAME_SHORT`
rejects the line before any check. -/
theorem shortLineIsMalformed : Obligations.ShortLineIsMalformed := by
  intro s hfits hline hcount
  have hn : (split s.line).length < Config.minTokens :=
    not_le.mp (mt (minTokens_le_iff s.line).mp (not_le.mpr hcount))
  have heval : evaluateLine s
      = .next (raise .malformed (s.setWork { tokens := split s.line })) := by
    rw [evaluateLine_of_fits hfits (mt (line_eq_nil_iff s).mpr hline), runTokens, setWork_work,
      if_pos hn]
    rfl
  refine lineGives_of_evaluateLine heval ?_
  rw [lineEvent_of_fits hfits, decodeLine_of_short _ _ hline hn]
  rfl

/-- Settles O42: the checksum token is examined first, and its rejection skips every later check. -/
theorem badMarkerIsMalformed : Obligations.BadMarkerIsMalformed := by
  intro s hfits hcount hck
  have hn := (minTokens_le_iff s.line).mpr hcount
  obtain ⟨u, hu⟩ := runCksum_of_none (s := s.setWork { tokens := split s.line }) hck
  have heval : evaluateLine s = .next (raise .malformed u) := by
    rw [evaluateLine_of_minTokens hfits hn, runChecks, hu]
    simp only [andThen_next, unlessDecided_of_decided (raise_decided ..)]
  refine lineGives_of_evaluateLine heval ?_
  rw [lineEvent_of_fits hfits, decodeLine_of_no_cksum _ _ (ne_nil_of_minTokens hn) hck]
  rfl

/-! ## Lines with a checksum -/

theorem State.HasChecksum.decodeLine_eq {s : State} {v : Nat} (h : s.HasChecksum v) :
    decodeLine s.params s.identity s.line =
    if (crc16 (coveredSpan s.params s.line)).toNat ≠ v then .reject .checksumMismatch
    else decodeIdentity s.params s.identity (split s.line) :=
  decodeLine_of_cksum _ _ (ne_nil_of_minTokens h.tokens) (not_lt.mpr h.tokens) h.value

/-- Settles O43: `CRC_CHECK` follows the checksum token, and its rejection skips the identity, so
that not even an illegal configuration is looked at. -/
theorem wrongChecksumIsMismatch : Obligations.WrongChecksumIsMismatch := by
  intro s v h hcrc
  have heval : ∃ u, evaluateLine s = .next (raise .checksumMismatch u) := by
    rw [evaluateLine_of_minTokens h.fits h.tokens, runChecks,
      runCksum_of_some (s := s.setWork { tokens := split s.line }) h.value, andThen_next,
      unlessDecided_of_open (by rfl), execCrcCheck, if_neg (by exact hcrc)]
    simp only [andThen_next, unlessDecided_of_decided (raise_decided ..)]
    exact ⟨_, rfl⟩
  obtain ⟨u, hu⟩ := heval
  refine lineGives_of_evaluateLine hu ?_
  rw [lineEvent_of_fits h.fits, h.decodeLine_eq, if_pos hcrc]
  rfl

theorem State.PassesCrc.decodeLine_eq {s : State} (h : s.PassesCrc) :
    decodeLine s.params s.identity s.line
      = decodeIdentity s.params s.identity (split s.line) := by
  rw [HasChecksum.decodeLine_eq h, if_neg (not_not.mpr rfl)]

theorem State.PassesIdentity.decodeLine_eq {s : State} (h : s.PassesIdentity) :
    decodeLine s.params s.identity s.line = decodeType s.params (split s.line) := by
  have hp : differs s.identity.product (tokenAt (split s.line) 1) = false := h.product
  have hs : differs s.identity.serial (tokenAt (split s.line) 2) = false := h.serial
  simp only [h.crc.decodeLine_eq, decodeIdentity, hp, hs, Bool.false_eq_true, if_false]

/-- Settles O44: either test of the identity gives the one rejection, before token 0 is read. -/
theorem wrongDeviceIsIdentityMismatch : Obligations.WrongDeviceIsIdentityMismatch := by
  intro s h hc hdiff
  have hres : decodeIdentity s.params s.identity (split s.line) = .reject .identityMismatch := by
    unfold decodeIdentity
    by_cases hp : differs s.identity.product (tokenAt (split s.line) 1) = true
    · rw [if_pos hp]
    · have hs : differs s.identity.serial (tokenAt (split s.line) 2) = true :=
        hdiff.resolve_left hp
      rw [if_neg hp, if_pos hs]
  exact ⟨lineGives_of_cfgLegal h.fits hc (by rw [h.decodeLine_eq, hres]; rfl), rfl⟩

/-- Settles O45: what is left of `decode` is the test of token 0. -/
theorem otherTypeIsUnsupported : Obligations.OtherTypeIsUnsupported := by
  intro s h (htype : tokenAt (split s.line) 0 ≠ Config.typeD)
  refine lineGives_of_cfgLegal h.crc.fits h.legal ?_
  rw [h.decodeLine_eq, decodeType, if_pos htype]
  rfl

end Sys2Proof.Machine
end

section
/-! One corrupted byte of an accepted line (42_frame_validator.md R156): a byte of the covered span
changes the CRC and leaves the last token alone; the comma before the mark, once overwritten, leaves a
last token that has the mark inside. -/

namespace Sys2Proof.Machine

/-! ## One byte and the CRC -/

theorem messageBits_append (s t : Token) :
    messageBits (s ++ t) = messageBits s ++ messageBits t := by
  simp [messageBits]

/-- The eight bits of the byte can be read back from the register they leave, and no bit after them
makes different registers the same. -/
theorem crc16_ne_of_byte_ne (s t : Token) {a b : Byte} (h : a ≠ b) :
    crc16 (s ++ a :: t) ≠ crc16 (s ++ b :: t) := by
  intro hcrc
  simp only [crc16_eq_foldl_crcBit, messageBits_append, messageBits_cons _ t,
    List.foldl_append] at hcrc
  exact h (messageBits_singleton_inj
    (foldl_crcBit_injective_bits _ rfl (by simp [length_messageBits])
      (foldl_crcBit_injective _ hcrc)))

theorem crc16_set_append_ne {s : Token} {i : Nat} {old new : Byte} (hold : s[i]? = some old)
    (hne : new ≠ old) (t : Token) : crc16 (s.set i new ++ t) ≠ crc16 (s ++ t) := by
  obtain ⟨hi, rfl⟩ := List.getElem?_eq_some_iff.mp hold
  have hset (b : Byte) : s.set i b ++ t = s.take i ++ b :: (s.drop (i + 1) ++ t) := by
    simp [List.set_eq_take_append_cons_drop, hi]
  have hsame : s ++ t = s.take i ++ s[i] :: (s.drop (i + 1) ++ t) := by
    rw [← hset, List.set_getElem_self]
  rw [hset, hsame]
  exact crc16_ne_of_byte_ne _ _ hne

/-! ## One byte and the tokens -/

/-- Overwriting a comma joins two tokens, writing one cuts a token in two. -/
theorem length_split_set {s : Token} {i : Nat} {old : Byte} (hold : s[i]? = some old) (new : Byte) :
    (split (s.set i new)).length = (split s).length - (if old = Config.delimByte then 1 else 0)
      + (if new = Config.delimByte then 1 else 0) := by
  obtain ⟨hi, rfl⟩ := List.getElem?_eq_some_iff.mp hold
  rw [length_split, length_split, List.count_set hi]
  simp only [beq_iff_eq]
  by_cases h : s[i] = Config.delimByte
  · have hpos : 0 < s.count Config.delimByte :=
      List.count_pos_iff.mpr (h ▸ List.getElem_mem hi)
    rw [if_pos h]
    omega
  · rw [if_neg h]
    omega

theorem lastToken_append {ts : List Token} (h : ts ≠ []) (us : List Token) :
    lastToken (us ++ ts) = lastToken ts := by
  rw [lastToken, lastToken, List.getLastD_eq_getLast?, List.getLastD_eq_getLast?,
    List.getLast?_append_of_ne_nil _ h]

theorem lastToken_split_of_not_mem {t : Token} (h : Config.delimByte ∉ t) :
    lastToken (split t) = t := by
  rw [split_of_not_mem h]
  rfl

theorem lastToken_split_append_delim (s : Token) {t : Token} (h : Config.delimByte ∉ t) :
    lastToken (split (s ++ Config.delimByte :: t)) = t := by
  rw [split_append_delim, lastToken_append (split_ne_nil t), lastToken_split_of_not_mem h]

/-- A line with a comma is what stands before its last comma, and its last token. -/
theorem exists_eq_append_delim {s : Token} (h : Config.delimByte ∈ s) :
    ∃ pre last, s = pre ++ Config.delimByte :: last ∧ Config.delimByte ∉ last := by
  obtain ⟨lastRev, preRev, hs, hlast⟩ := List.eq_append_cons_of_mem (List.mem_reverse.mpr h)
  exact ⟨preRev.reverse, lastRev.reverse, by simpa using congrArg List.reverse hs,
    by simpa using hlast⟩

/-- Bytes without a comma at the end of a line are the end of its last token. -/
theorem exists_lastToken_split_append (s : Token) {t : Token} (h : Config.delimByte ∉ t) :
    ∃ u, lastToken (split (s ++ t)) = u ++ t := by
  by_cases hs : Config.delimByte ∈ s
  · obtain ⟨pre, u, rfl, hu⟩ := exists_eq_append_delim hs
    refine ⟨u, ?_⟩
    rw [List.append_assoc, List.cons_append]
    exact lastToken_split_append_delim pre (by simp [hu, h])
  · exact ⟨s, lastToken_split_of_not_mem (by simp [hs, h])⟩

/-! ## The accepted line -/

/-- No checksum token has a mark behind its first byte (R70). -/
theorem parseCksum_of_inner_mark {t : Token} (h : t ≠ []) (ds : Token) :
    parseCksum (t ++ Config.markByte :: ds) = none := by
  refine Option.eq_none_iff_forall_ne_some.mpr fun v hv => ?_
  obtain ⟨b, t, rfl⟩ := List.exists_cons_of_ne_nil h
  obtain ⟨es, -, hes, hdigits⟩ := (parseCksum_eq_some_iff _ v).mp hv
  obtain ⟨-, rfl⟩ := List.cons.inj hes
  obtain ⟨hall, -⟩ := (hexDigits_eq_some_iff _ v).mp hdigits
  simpa [hexval_mark] using hall Config.markByte (by simp)

theorem coveredSpan_decided_append (s : Token) {t : Token} (h : t.length = 5) :
    coveredSpan Params.decided (s ++ t) = s := by
  simp [coveredSpan, Params.decided, h]

/-- An accepted line has passed steps 1 to 5. -/
theorem checksum_of_decodeLine_accept {p : Params} {cfg : Identity} {line : Token} {u : Update}
    (h : decodeLine p cfg line = .accept u) : Config.minTokens ≤ (split line).length
      ∧ parseCksum (lastToken (split line)) = some (crc16 (coveredSpan p line)).toNat := by
  have hline : line ≠ [] := by
    rintro rfl
    cases h
  by_cases hn : (split line).length < Config.minTokens
  · cases (decodeLine_of_short p cfg hline hn).symm.trans h
  refine ⟨not_lt.mp hn, ?_⟩
  cases hck : parseCksum (lastToken (split line)) with
  | none => cases (decodeLine_of_no_cksum p cfg hline hck).symm.trans h
  | some v =>
    rw [decodeLine_of_cksum p cfg hline hn hck] at h
    split at h
    · cases h
    · next hcrc => rw [not_not.mp hcrc]

/-! ## The corrupted line -/

section
variable {cfg : Identity} {pre last : Token} {u : Update}
  (hacc : decodeLine Params.decided cfg (pre ++ Config.delimByte :: last) = .accept u)
  (hlast : Config.delimByte ∉ last)
include hacc hlast

/-- With another CRC of the span the same last token is `ChecksumMismatch`, as long as the line still
has six tokens. -/
theorem decodeLine_of_corrupted_span (hlen : last.length = 5) {pre' : Token}
    (hcrc : crc16 (pre' ++ [Config.delimByte]) ≠ crc16 (pre ++ [Config.delimByte])) :
    decodeLine Params.decided cfg (pre' ++ Config.delimByte :: last) =
      .reject (if (split (pre' ++ Config.delimByte :: last)).length < Config.minTokens
        then .malformed else .checksumMismatch) := by
  have span (s : Token) : coveredSpan Params.decided (s ++ Config.delimByte :: last)
      = s ++ [Config.delimByte] := by
    rw [List.append_cons, coveredSpan_decided_append _ hlen]
  have hck := (checksum_of_decodeLine_accept hacc).2
  rw [lastToken_split_append_delim pre hlast, span,
    ← lastToken_split_append_delim pre' hlast] at hck
  have hline : pre' ++ Config.delimByte :: last ≠ [] := by simp
  by_cases hn : (split (pre' ++ Config.delimByte :: last)).length < Config.minTokens
  · rw [decodeLine_of_short _ _ hline hn, if_pos hn]
  · rw [decodeLine_of_cksum _ _ hline hn hck, if_neg hn, span,
      if_pos (mt BitVec.eq_of_toNat_eq hcrc)]

/-- Without the comma before it the mark stands inside the last token. -/
theorem decodeLine_of_corrupted_comma {new : Byte} (hnew : new ≠ Config.delimByte) :
    decodeLine Params.decided cfg (pre ++ new :: last) = .reject .malformed := by
  have hck := (checksum_of_decodeLine_accept hacc).2
  rw [lastToken_split_append_delim pre hlast] at hck
  obtain ⟨ds, -, rfl, -⟩ := (parseCksum_eq_some_iff _ _).mp hck
  obtain ⟨t, ht⟩ := exists_lastToken_split_append pre (t := new :: Config.markByte :: ds)
    (List.not_mem_cons_of_ne_of_not_mem (Ne.symm hnew) hlast)
  refine decodeLine_of_no_cksum _ _ (by simp) ?_
  rw [ht, List.append_cons]
  exact parseCksum_of_inner_mark (by simp) ds

end

/-- Settles O48: a byte before the last comma changes the CRC of the span, and the count of commas
says whether six tokens are left; the last comma itself is the one case that touches the last
token. -/
theorem oneCorruptedByteIsRejected : Obligations.OneCorruptedByteIsRejected := by
  intro cfg line u i old new hacc hlen hi hold hne _
  have hn := (checksum_of_decodeLine_accept hacc).1
  have hcomma : Config.delimByte ∈ line :=
    List.count_pos_iff.mp (lt_of_lt_of_le (by decide) ((minTokens_le_iff line).mp hn))
  obtain ⟨pre, last, rfl, hlast⟩ := exists_eq_append_delim hcomma
  rw [lastToken_split_append_delim pre hlast] at hlen
  have htotal : (pre ++ Config.delimByte :: last).length = pre.length + 6 := by simp [hlen]
  have hcount := length_split_set hold new
  rw [Config.minTokens] at hn
  rw [htotal] at hi ⊢
  obtain hi | rfl : i < pre.length ∨ i = pre.length := by omega
  · have hpre : pre[i]? = some old := by rwa [List.getElem?_append_left hi] at hold
    rw [List.set_append_left _ _ hi] at hcount ⊢
    rw [decodeLine_of_corrupted_span hacc hlast hlen (crc16_set_append_ne hpre hne _), hcount,
      Config.minTokens]
    refine ⟨fun (h : old ≠ Config.delimByte) => ?_, fun (h : old = Config.delimByte) hsix => ?_,
      fun (h : old = Config.delimByte) _ hsix => ?_⟩
    · rw [if_neg h, if_neg (by omega)]
    · rw [if_pos h, if_neg (c := new = Config.delimByte) (h ▸ hne), if_pos (by omega)]
    · rw [if_pos h, if_neg (c := new = Config.delimByte) (h ▸ hne), if_neg (by omega)]
  · obtain rfl : Config.delimByte = old := by simpa using hold
    have hset : (pre ++ Config.delimByte :: last).set pre.length new = pre ++ new :: last := by simp
    rw [hset]
    exact ⟨fun h => absurd rfl h, fun _ _ => decodeLine_of_corrupted_comma hacc hlast hne,
      fun _ h => absurd rfl h⟩

end Sys2Proof.Machine
end

section
/-! A frame as the sender builds it (30_encoding.md R74) and what the block makes of it
(42_frame_validator.md R154): its tokens are its fields in order, the checksum token parses to the CRC
of the body, and of the pairs with one label the last gives the value. -/

namespace Sys2Proof.Machine

/-! ## The checksum as the sender writes it -/

theorem hexval_hexDigitByte (d : BitVec 4) : hexval (hexDigitByte d) = some d.toNat := by
  decide +revert

theorem hexDigitByte_ne_delimByte (d : BitVec 4) : hexDigitByte d ≠ Config.delimByte := by
  decide +revert

theorem delimByte_not_mem_hex4 (c : Crc) : Config.delimByte ∉ Config.markByte :: hex4 c := by
  have mark : Config.delimByte ≠ Config.markByte := by decide
  simp [hex4, mark, (hexDigitByte_ne_delimByte _).symm]

/-- The four digits are the CRC, most significant first (R70, R74). -/
theorem hexDigits_hex4 (c : Crc) : hexDigits 0 (hex4 c) = some c.toNat := by
  simp only [hex4, hexDigits, hexval_hexDigitByte, BitVec.extractLsb'_toNat,
    Nat.shiftRight_eq_div_pow]
  congr 1
  omega

theorem parseCksum_mark_hex4 (c : Crc) :
    parseCksum (Config.markByte :: hex4 c) = some c.toNat :=
  (parseCksum_eq_some_iff _ _).mpr ⟨hex4 c, List.cons_ne_nil _ _, rfl, hexDigits_hex4 c⟩

/-! ## The tokens of a built frame -/

theorem delimByte_not_mem_of_isToken {t : Token} (h : isToken t = true) :
    Config.delimByte ∉ t := by
  intro hmem
  simpa [isTokenByte] using List.all_eq_true.mp h _ hmem

/-- The pairs as tokens: value, unit, value, unit. -/
def pairTokens : List (Token × Token) → List Token
  | [] => []
  | (value, unit) :: r => value :: unit :: pairTokens r

theorem length_pairTokens (ps : List (Token × Token)) :
    (pairTokens ps).length = 2 * ps.length := by
  induction ps with
  | nil => rfl
  | cons q r ih =>
    simp only [pairTokens, List.length_cons, ih]
    omega

theorem split_pairBytes_append {ps : List (Token × Token)}
    (h : ∀ q ∈ ps, isToken q.1 = true ∧ isToken q.2 = true) (s : Token) :
    split (pairBytes ps ++ s) = pairTokens ps ++ split s := by
  induction ps with
  | nil => rfl
  | cons q r ih =>
    obtain ⟨hq, hr⟩ := List.forall_mem_cons.mp h
    simp only [pairBytes, List.append_assoc, List.cons_append,
      split_token_append (delimByte_not_mem_of_isToken hq.1),
      split_token_append (delimByte_not_mem_of_isToken hq.2), ih hr, pairTokens]

/-- The tokens of a frame: its fields in the order of the wire format, and the checksum token. -/
def frameTokens (f : FrameFields) : List Token :=
  [f.lineType, f.product, f.serial, f.message] ++ pairTokens f.pairs
    ++ [f.reserved, Config.markByte :: hex4 (crc16 (frameBody f))]

/-- Every field of the frame can stand as a token. -/
structure FrameFields.Clean (f : FrameFields) : Prop where
  lineType : isToken f.lineType = true
  product : isToken f.product = true
  serial : isToken f.serial = true
  message : isToken f.message = true
  pairs : ∀ q ∈ f.pairs, isToken q.1 = true ∧ isToken q.2 = true
  reserved : isToken f.reserved = true

theorem split_buildFrame {f : FrameFields} (h : f.Clean) : split (buildFrame f) = frameTokens f := by
  have ck := delimByte_not_mem_hex4 (crc16 (frameBody f))
  have field {t : Token} (ht : isToken t = true) (s : Token) :=
    split_token_append (delimByte_not_mem_of_isToken ht) s
  unfold buildFrame frameTokens
  generalize Config.markByte :: hex4 (crc16 (frameBody f)) = last at ck
  simp only [frameBody, List.append_assoc, List.cons_append, List.nil_append, field h.lineType,
    field h.product, field h.serial, field h.message, split_pairBytes_append h.pairs,
    field h.reserved, split_of_not_mem ck]

theorem minTokens_le_length_frameTokens (f : FrameFields) :
    Config.minTokens ≤ (frameTokens f).length := by
  simp only [frameTokens, List.length_append, List.length_cons, Config.minTokens]
  omega

theorem lastToken_frameTokens (f : FrameFields) :
    lastToken (frameTokens f) = Config.markByte :: hex4 (crc16 (frameBody f)) := by
  rw [frameTokens, lastToken_append (by simp)]
  rfl

/-- Two by two the tokens behind the header are the pairs again. -/
theorem pairs_of_pairTokens (ps : List (Token × Token)) (rest : List Token) :
    (List.range ps.length).map (fun i => (tokenAt (pairTokens ps ++ rest) (2 * i),
      tokenAt (pairTokens ps ++ rest) (1 + 2 * i))) = ps := by
  induction ps with
  | nil => rfl
  | cons q r ih =>
    rw [List.length_cons, List.range_succ_eq_map, List.map_cons, List.map_map]
    exact congrArg (q :: ·) ih

theorem pairsOf_frameTokens (f : FrameFields) :
    pairsOf Params.decided (frameTokens f) = f.pairs := by
  have count : pairCount Params.decided (frameTokens f).length = f.pairs.length := by
    simp only [pairCount, frameTokens, List.length_append, List.length_cons, length_pairTokens,
      List.length_nil, Config.headerTokens, Params.decided]
    omega
  have header (i : Nat) : tokenAt (frameTokens f) (Config.headerTokens + i)
      = tokenAt (pairTokens f.pairs
        ++ [f.reserved, Config.markByte :: hex4 (crc16 (frameBody f))]) i := by
    rw [Nat.add_comm]
    rfl
  simp only [pairsOf, count, Nat.add_assoc, header, pairs_of_pairTokens]

/-! ## The update of the pairs (R180) -/

theorem decodePairs_append_singleton (u : Update) (ps : List (Token × Token)) (q : Token × Token) :
    decodePairs u (ps ++ [q]) = match decodePairs u ps with
      | .accept u' => decodePairs u' [q]
      | r => r := by
  induction ps generalizing u with
  | nil => rfl
  | cons p r ih =>
    simp only [List.cons_append, decodePairs]
    cases fieldUpdate p.1 p.2 u with
    | none => rfl
    | some u' => exact ih u'

theorem lastValue_append_singleton {α : Type} (label : Token) (parse : Token → Option α)
    (ps : List (Token × Token)) (q : Token × Token) : lastValue label parse (ps ++ [q]) =
      if q.2 = label then parse q.1 else lastValue label parse ps := by
  by_cases h : q.2 = label <;> simp [lastValue, List.filter_append, h]

/-- A pair that converts replaces the value of its channel and leaves the others alone. -/
theorem fieldUpdate_expectedUpdate (ps : List (Token × Token)) {q : Token × Token}
    (h : pairConverts q = true) :
    fieldUpdate q.1 q.2 (expectedUpdate ps) = some (expectedUpdate (ps ++ [q])) := by
  obtain ⟨value, unit⟩ := q
  simp only [pairConverts] at h
  simp only [fieldUpdate, expectedUpdate, lastValue_append_singleton]
  by_cases hpa : unit = Config.labelPa
  · obtain ⟨v, hv⟩ := Option.isSome_iff_exists.mp (if_pos hpa ▸ h)
    simp [hpa, hv, Update.setPressure, Config.labelPa, Config.labelC, Config.labelRh,
      Config.labelPpm]
  rw [if_neg hpa] at h ⊢
  by_cases hlabel : unit = Config.labelC ∨ unit = Config.labelRh ∨ unit = Config.labelPpm
  · obtain ⟨d, hd⟩ := Option.isSome_iff_exists.mp (if_pos hlabel ▸ h)
    obtain rfl | rfl | rfl := hlabel <;>
      simp [hd, Update.setDec, Config.labelPa, Config.labelC, Config.labelRh, Config.labelPpm]
  · obtain ⟨hc, hrh, hppm⟩ : unit ≠ Config.labelC ∧ unit ≠ Config.labelRh
        ∧ unit ≠ Config.labelPpm := by simpa using hlabel
    simp only [if_neg hpa, if_neg hc, if_neg hrh, if_neg hppm]

/-- Where every pair converts, the last one of each label gives the value of its channel. -/
theorem decodePairs_eq_expectedUpdate {ps : List (Token × Token)}
    (h : ∀ q ∈ ps, pairConverts q = true) : decodePairs {} ps = .accept (expectedUpdate ps) := by
  induction ps using List.reverseRecOn with
  | nil => rfl
  | append_singleton ps q ih =>
    obtain ⟨hps, hq⟩ := List.forall_mem_append.mp h
    rw [decodePairs_append_singleton, ih hps]
    simp only [decodePairs, fieldUpdate_expectedUpdate ps (hq q List.mem_cons_self)]

/-! ## The frame is accepted -/

/-- Settles O47: the frame passes the checks one by one on its own tokens, and the pairs between the
header and the last two tokens are decoded. -/
theorem wellFormedFrameIsAccepted : Obligations.WellFormedFrameIsAccepted := by
  intro s f htype hproduct hserial hmessage hreserved hpairs hline hfits hparams hc hdp hds
  have clean : f.Clean :=
    ⟨by rw [htype]; decide, hproduct, hserial, hmessage,
      fun q hq => ⟨(hpairs q hq).1, (hpairs q hq).2.1⟩, hreserved⟩
  have tokens : split s.line = frameTokens f := by rw [hline, split_buildFrame clean]
  have span : coveredSpan s.params s.line = frameBody f := by
    rw [hparams, hline]
    exact coveredSpan_decided_append _ rfl
  have passes : s.PassesIdentity :=
    { crc :=
        { fits := hfits
          tokens := tokens ▸ minTokens_le_length_frameTokens f
          value := by rw [tokens, lastToken_frameTokens, parseCksum_mark_hex4, span] }
      legal := hc
      product := by rw [tokens]; exact hdp
      serial := by rw [tokens]; exact hds }
  have typeD : tokenAt (frameTokens f) 0 = Config.typeD := htype
  refine lineGives_of_cfgLegal hfits hc ?_
  rw [passes.decodeLine_eq, tokens, decodeType, if_neg (not_not.mpr typeD), decodeFields, hparams,
    pairsOf_frameTokens, decodePairs_eq_expectedUpdate fun q hq => (hpairs q hq).2.2]
  rfl

end Sys2Proof.Machine
end

section
/-! The field decoder (43_field_decoder.md): which tokens are pairs (R171), the sign and the point of
a literal (R176, R178), the conversion a unit selects (R172 to R179), and the loop over the pairs, in
which the last value of a channel wins and one bad literal rejects the frame (R170, R180, R181). -/

namespace Sys2Proof.Machine

/-! ## The pairs -/

theorem getElem?_eq_some_tokenAt {tokens : List Token} {i : Nat} (h : i < tokens.length) :
    tokens[i]? = some (tokenAt tokens i) := by
  rw [tokenAt, List.getD_eq_getElem _ _ h, List.getElem?_eq_getElem h]

theorem tokenAt_append_left {pre : List Token} {i : Nat} (h : i < pre.length) (tail : List Token) :
    tokenAt (pre ++ tail) i = tokenAt pre i := List.getD_append _ _ _ _ h

/-- Both tokens of a pair stand behind the header and in front of the tail. -/
theorem pair_lt_of_lt_pairCount {p : Params} {n i : Nat} (h : i < pairCount p n) :
    Config.headerTokens + 1 + 2 * i + p.pairTail < n := by
  simp only [pairCount, Config.headerTokens] at h ⊢
  omega

theorem length_pairsOf (p : Params) (tokens : List Token) :
    (pairsOf p tokens).length = pairCount p tokens.length := by
  rw [pairsOf, List.length_map, List.length_range]

/-- Pair `i` is the two tokens behind the header and the `i` pairs before it. -/
theorem pairsOf_getElem?_eq_some {p : Params} {tokens : List Token} {i : Nat} {q : Token × Token}
    (h : (pairsOf p tokens)[i]? = some q) :
    tokens[Config.headerTokens + 2 * i]? = some q.1
      ∧ tokens[Config.headerTokens + 1 + 2 * i]? = some q.2 := by
  obtain ⟨hi, rfl⟩ := List.getElem?_eq_some_iff.mp h
  have hlt := pair_lt_of_lt_pairCount (length_pairsOf p tokens ▸ hi)
  simp only [pairsOf, List.getElem_map, List.getElem_range]
  exact ⟨getElem?_eq_some_tokenAt (by omega), getElem?_eq_some_tokenAt (by omega)⟩

/-- Tokens appended at the end are no data where the number of pairs shows that none of them is in
a pair. -/
theorem pairsOf_append {p p' : Params} {pre tail : List Token}
    (h : pairCount p (pre ++ tail).length = pairCount p' pre.length) :
    pairsOf p (pre ++ tail) = pairsOf p' pre := by
  simp only [pairsOf, h]
  refine List.map_congr_left fun i hi => ?_
  have hlt := pair_lt_of_lt_pairCount (List.mem_range.mp hi)
  rw [tokenAt_append_left (by omega), tokenAt_append_left (by omega)]

theorem pairsOf_decided_append_two (pre : List Token) (r c : Token) :
    pairsOf Params.decided (pre ++ [r, c])
      = pairsOf { Params.decided with pairTail := 0 } pre := by
  refine pairsOf_append ?_
  simp only [pairCount, Params.decided, List.length_append, List.length_cons, List.length_nil]
  omega

theorem pairsOf_decided_append_three {pre : List Token} (hpre : 4 ≤ pre.length)
    (heven : pre.length % 2 = 0) (x r c : Token) :
    pairsOf Params.decided (pre ++ [x, r, c])
      = pairsOf { Params.decided with pairTail := 0 } pre := by
  refine pairsOf_append ?_
  simp only [pairCount, Params.decided, Config.headerTokens, List.length_append, List.length_cons,
    List.length_nil]
  omega

/-- Settles O50: with two tokens behind them, or three where the first is unpaired, the pairs are
those of the tokens before. -/
theorem pairsLeaveTheLastTwoTokens : Obligations.PairsLeaveTheLastTwoTokens := by
  refine ⟨fun tokens _ => ⟨?_, fun i q hq => pairsOf_getElem?_eq_some hq⟩, ?_, ?_⟩
  · rw [length_pairsOf, pairCount, Nat.sub_sub]
    rfl
  · intro pre r c r' c' _
    rw [pairsOf_decided_append_two, pairsOf_decided_append_two]
  · intro pre x r c hpre heven
    rw [pairsOf_decided_append_three hpre heven, pairsOf_decided_append_two]

/-! ## The sign and the point -/

theorem execPoint_of_taken {s : State} (hdec : s.work.lit.dec = true)
    (hpoint : s.work.lit.point = false) : execPoint s
      = .next (setLit { s.work.lit with pos := s.work.lit.pos + 1, point := true } s) := by
  simp only [execPoint, hdec, hpoint, Bool.not_false, Bool.and_self, if_true]

theorem execPoint_of_misplaced {s : State}
    (h : s.work.lit.dec = false ∨ s.work.lit.point = true) :
    execPoint s = .next (litIllFormed s) := by
  refine if_neg ?_
  obtain h | h := h <;> simp [h]

/-- Settles O52: both signs are `litSign`, by the position of the byte; the point by whether it is
taken. -/
theorem signAndPointPlaces : Obligations.SignAndPointPlaces := by
  intro s
  have sign_first (hp : s.work.lit.pos = 0) (neg : Bool) :
      litSign neg s = setLit { s.work.lit with pos := 1, neg := neg } s := by
    rw [litSign, if_pos hp, hp]
  have sign_later (hp : s.work.lit.pos ≠ 0) (neg : Bool) : litSign neg s = litIllFormed s :=
    if_neg hp
  exact ⟨fun hp => ⟨congrArg Host.Outcome.next (sign_first hp false),
      congrArg Host.Outcome.next (sign_first hp true)⟩,
    fun hp => ⟨congrArg Host.Outcome.next (sign_later hp false),
      congrArg Host.Outcome.next (sign_later hp true)⟩,
    execPoint_of_taken, execPoint_of_misplaced⟩

/-! ## The units -/

theorem attached_eq_afterField (u : Option Update) (s : State) : attached u s = afterField u s := by
  cases u <;> rfl

/-- Settles O55: the literal's accumulators hold what `parse_int` answers. -/
theorem unitPaConverts : Obligations.UnitPaConverts := by
  intro s value
  change execUnitPa value s = _
  rw [convertInt_eq, attached_eq_afterField]
  rfl

/-- Settles O56: each unit is `convertDec` on its own channel. -/
theorem decimalUnitsConvert : Obligations.DecimalUnitsConvert := by
  intro s value
  have convert (c : DecChannel) : convertDec c value s
      = .next (afterField ((parseDec value).map (s.work.update.setDec c)) s) := by
    rw [convertDec_eq, attached_eq_afterField]
  exact ⟨convert .temperature, convert .humidity, convert .co2⟩

/-- Settles O57, by the four comparisons of the unit token. -/
theorem unknownUnitIsIgnored : Obligations.UnknownUnitIsIgnored := by
  intro s value unit hpa hc hrh hppm
  have other : isUnitLabel unit = false := by
    simp [isUnitLabel, Config.labelPa, Config.labelC, Config.labelRh, Config.labelPpm, hpa, hc,
      hrh, hppm]
  exact ⟨decodePair_of_not_unitLabel other value, rfl⟩

/-! ## The loop over the pairs -/

/-- `FRAME_D` leaves the tokens and the checksum as they are. -/
theorem execFrameD_keeps_tokens {s t : State} (h : execFrameD s = .next t) :
    t.work.tokens = s.work.tokens ∧ t.work.cur = s.work.cur ∧ t.work.ck = s.work.ck
      ∧ t.work.parsed = s.work.parsed := by
  obtain ⟨w, hrun, htokens, hcur, hck, hparsed, -⟩ :=
    runPairs_eq (pairsOf s.params s.work.tokens) (beginFields s) rfl
  rw [execFrameD, hrun, andThen_next, unlessDecided] at h
  split at h <;> (cases h; exact ⟨htokens, hcur, hck, hparsed⟩)

/-- Settles O58: the result is that of `decode_fields`, and neither the pairs nor the acceptance
writes a token or the checksum. -/
theorem frameDDecodesFields : Obligations.FrameDDecodesFields := by
  intro s
  obtain ⟨w, hexec, hverdict⟩ := execFrameD_verdict s
  exact ⟨w, hexec, hverdict, execFrameD_keeps_tokens hexec⟩

/-- Settles O59, pair by pair from the last. -/
theorem lastPairWins : Obligations.LastPairWins := fun _ => decodePairs_eq_expectedUpdate

/-- A pair gives an update exactly when its value converts or its unit is not recognized. -/
theorem isSome_fieldUpdate (q : Token × Token) (u : Update) :
    (fieldUpdate q.1 q.2 u).isSome = pairConverts q := by
  unfold fieldUpdate pairConverts
  by_cases hpa : q.2 = Config.labelPa
  · rw [if_pos hpa, if_pos hpa, Option.isSome_map]
  rw [if_neg hpa, if_neg hpa]
  by_cases hc : q.2 = Config.labelC
  · rw [if_pos hc, if_pos (.inl hc), Option.isSome_map]
  by_cases hrh : q.2 = Config.labelRh
  · rw [if_neg hc, if_pos hrh, if_pos (.inr (.inl hrh)), Option.isSome_map]
  by_cases hppm : q.2 = Config.labelPpm
  · rw [if_neg hc, if_neg hrh, if_pos hppm, if_pos (.inr (.inr hppm)), Option.isSome_map]
  · simp only [hc, hrh, hppm, or_self, if_false, Option.isSome_some]

/-- A pair that does not convert ends the loop with the rejection, whatever update it has built
(R181). -/
theorem decodePairs_of_bad_pair {ps : List (Token × Token)}
    (h : ∃ q ∈ ps, pairConverts q = false) (u : Update) :
    decodePairs u ps = .reject .malformed := by
  induction ps generalizing u with
  | nil => obtain ⟨q, hq, -⟩ := h; cases hq
  | cons q r ih =>
    have hq := isSome_fieldUpdate q u
    unfold decodePairs
    cases hf : fieldUpdate q.1 q.2 u with
    | none => rfl
    | some u' =>
      have converts : pairConverts q = true := by rw [← hq, hf]; rfl
      have bad_later : ∃ p ∈ r, pairConverts p = false := by
        simpa [converts] using h
      exact ih bad_later u'

/-- Settles O60: what is left of `decode` on such a line is the loop over its pairs. -/
theorem oneBadLiteralRejectsFrame : Obligations.OneBadLiteralRejectsFrame := by
  intro s h (htype : tokenAt (split s.line) 0 = Config.typeD) hbad
  refine lineGives_of_cfgLegal h.crc.fits h.legal ?_
  rw [h.decodeLine_eq, decodeType, if_neg (not_not.mpr htype), decodeFields,
    decodePairs_of_bad_pair hbad]
  rfl

end Sys2Proof.Machine
end

section
/-! Reset and the configuration ports (70_reset_and_hazards.md R230 to R232, R240): what a reset edge
leaves, that the ports are read at no other edge, and that the session a reset begins depends on
nothing the block held before it. -/

namespace Sys2Proof.Machine

/-! ## The configuration a reset loads (R17, R18, R230) -/

theorem loadBytes_getElem (port : BitVec 256) (i : Nat) (h : i < 32) :
    (loadBytes port)[i] = port.extractLsb' (8 * i) 8 := by
  simp [loadBytes]

theorem loadBytes_toList (port : BitVec 256) :
    (loadBytes port).toList = (List.range 32).map fun i => port.extractLsb' (8 * i) 8 :=
  rfl

/-- Of a legal group the expected value is the first `len` bytes of the port. -/
theorem loadId_expected {en : Bool} {len : BitVec 6} {port : BitVec 256}
    (h : (loadId en len port).legal = true) : (loadId en len port).expected =
      if en then some ((List.range len.toNat).map fun i => port.extractLsb' (8 * i) 8)
      else none := by
  cases en with
  | false => rfl
  | true =>
    have hlen : len.toNat ≤ 32 := of_decide_eq_true h
    simp only [IdRegs.expected, loadId, if_true, loadBytes_toList, ← List.map_take,
      List.take_range, min_eq_left hlen]

/-! ## The reset edge (R27, R230, R232) -/

/-- What a reset edge with legal ports leaves. -/
def resetTo (c : CfgPorts) (s : State) : State :=
  { strobeEnd s with
    len := 0#8
    ovf := false
    cfgProd := loadId c.prodEn c.prodLen c.prod
    cfgSer := loadId c.serEn c.serLen c.ser
    events := []
    work := {} }

theorem resetBlock_of_legal {c : CfgPorts} (h : c.legal = true) (s : State) :
    resetBlock c s = .next (resetTo c s) :=
  if_pos h

theorem resetBlock_of_illegal {c : CfgPorts} (h : c.legal = false) (s : State) :
    resetBlock c s = .refused .illegalIdentityLength :=
  if_neg (Bool.eq_false_iff.mp h)

theorem resetTo_cfgLegal {c : CfgPorts} (h : c.legal = true) (s : State) :
    (resetTo c s).cfgLegal = true :=
  h

theorem resetTo_identity {c : CfgPorts} (h : c.legal = true) (s : State) :
    (resetTo c s).identity = c.identity := by
  obtain ⟨hprod, hser⟩ := Bool.and_eq_true_iff.mp (resetTo_cfgLegal h s)
  exact congrArg₂ Identity.mk (loadId_expected hprod) (loadId_expected hser)

/-- `rst = 1` overrides whatever else the sample holds. -/
theorem step_of_rst {s : State} {p : PortSample} {r : List PortSample} (hrx : s.rx = p :: r)
    (hrst : p.rst = true) : step s = resetBlock p.cfg ((s.setRx r).setReady false) := by
  have edge := nextEdge_of_cons hrx
  rw [inReady_of_rst hrst] at edge
  have hread : p.read = .reset p.cfg := if_pos hrst
  rw [step_of_reset ((congrArg Prod.fst edge).trans hread), edge]

/-- Settles O15: a legal configuration is answered with `resetTo`, an illegal one refused. -/
theorem resetEdge : Obligations.ResetEdge := by
  intro s p r hrx hrst
  rw [step_of_rst hrx hrst]
  refine ⟨fun hc => ?_, fun hc => resetBlock_of_illegal hc _⟩
  exact ⟨_, resetBlock_of_legal hc _, inReady_of_rst hrst, rfl, rfl, rfl, rfl,
    resetTo_identity hc _, rfl, rfl, rfl, rfl,
    fun i hi => ⟨loadBytes_getElem _ i hi, loadBytes_getElem _ i hi⟩,
    rfl, rfl, rfl, rfl, fun _ => rfl⟩

/-! ## The configuration ports while `rst` is 0 (R240) -/

theorem PortSample.read_setCfg {p : PortSample} (hrst : p.rst = false) (c : CfgPorts) :
    ({ p with cfg := c } : PortSample).read = p.read := by
  simp [PortSample.read, PortSample.inReady, hrst]

/-- Settles O16: without a reset the edge is told without the ports, and so is its step. -/
theorem configPortsReadOnlyAtReset : Obligations.ConfigPortsReadOnlyAtReset := by
  intro s p r c hrst
  have edge : nextEdge { s with rx := { p with cfg := c } :: r }
      = nextEdge { s with rx := p :: r } := by
    rw [nextEdge_of_cons rfl, nextEdge_of_cons rfl, PortSample.read_setCfg hrst c]
    rfl
  rw [step, step, edge]

/-! ## The session after a reset (R231) -/

theorem resetTo_inSession {c : CfgPorts} {s : State} (hc : c.legal = true)
    (hw : Memory.wf s.lb = true) : (resetTo c s).InSession s.params c.identity [] ([], []) := by
  rw [← resetTo_identity hc s]
  exact inSession_of_lineStart (s := resetTo c s) rfl (resetTo_cfgLegal hc s) hw

/-- A reset edge begins a session on the parameters and the ports alone. -/
theorem step_inSession_of_rst {s : State} {p : PortSample} {r : List PortSample}
    (hrx : s.rx = p :: r) (hrst : p.rst = true) (hc : p.cfg.legal = true)
    (hw : Memory.wf s.lb = true) :
    ∃ t, step s = .next t ∧ t.rx = r ∧ t.InSession s.params p.cfg.identity [] ([], []) :=
  ⟨_, (step_of_rst hrx hrst).trans (resetBlock_of_legal hc _), rfl,
    resetTo_inSession (s := (s.setRx r).setReady false) hc hw⟩

theorem run_inSession_of_rst {s : State} {p : PortSample} {edges : List PortSample}
    (hrx : s.rx = p :: edges) (hrst : p.rst = true) (hc : p.cfg.legal = true)
    (hedges : ∀ q ∈ edges, q.rst = false) (hw : Memory.wf s.lb = true) :
    ∃ t, Host.Core.run core (edges.length + 1) s = .next t
      ∧ t.InSession s.params p.cfg.identity [] (cutLines (accepted edges)) := by
  obtain ⟨u, hstep, hurx, hu⟩ := step_inSession_of_rst hrx hrst hc hw
  obtain ⟨t, hrun, -, ht⟩ := hu.run (hurx.trans (List.append_nil edges).symm) hedges
  have hcore : core.step s = .next u := hstep
  exact ⟨t, by simp only [Host.Core.run, hcore, hrun], ht⟩

/-- A session determines the output sequence and the line under assembly. -/
theorem State.InSession.unique {s t : State} {p : Params} {cfg : Identity} {past : List Event}
    {acc : List Token × Token} (hs : s.InSession p cfg past acc) (ht : t.InSession p cfg past acc) :
    s.events = t.events ∧ s.len = t.len ∧ s.ovf = t.ovf ∧ s.line = t.line :=
  ⟨hs.events.trans ht.events.symm, BitVec.eq_of_toNat_eq (hs.len.trans ht.len.symm),
    Bool.eq_iff_iff.mpr (hs.ovf.trans ht.ovf.symm), hs.line.trans ht.line.symm⟩

/-- Settles O26: the reset puts both blocks in one session, which R124 then gives its output. -/
theorem sessionsAreIndependent : Obligations.SessionsAreIndependent := by
  intro s t p edges hparams hws hwt hsrx htrx hrst hc hedges
  obtain ⟨s', hrun, hs'⟩ := run_inSession_of_rst hsrx hrst hc hedges hws
  obtain ⟨t', hrun', ht'⟩ := run_inSession_of_rst htrx hrst hc hedges hwt
  rw [← hparams] at ht'
  exact ⟨s', t', hrun, hrun', hs'.unique ht'⟩

end Sys2Proof.Machine
end

section
/-! A 0x00 byte in front of an accepted line (70_reset_and_hazards.md R245 (b)): the CRC is the same with
zeros in front (40_crc.md R105), so the line fails no check before the one of its type, token 0. -/

namespace Sys2Proof.Machine

theorem crc16_zero_cons (s : Token) : crc16 (0x00#8 :: s) = crc16 s :=
  crc16_zeros_append 1 s

/-- The span grows by the zero byte, or it is empty with and without it. -/
theorem crc16_coveredSpan_zero_cons (p : Params) (line : Token) :
    crc16 (coveredSpan p (0x00#8 :: line)) = crc16 (coveredSpan p line) := by
  unfold coveredSpan
  rw [List.length_cons]
  by_cases h : p.crcTail ≤ line.length
  · rw [Nat.succ_sub h, List.take_succ_cons, crc16_zero_cons]
  · rw [Nat.sub_eq_zero_of_le (by omega), Nat.sub_eq_zero_of_le (by omega)]
    rfl

/-- A byte in front of a line stands in front of its first token. -/
theorem split_cons_of_ne_delim {b : Byte} (hb : b ≠ Config.delimByte) (line : Token) :
    ∃ t ts, split line = t :: ts ∧ split (b :: line) = (b :: t) :: ts := by
  obtain ⟨t, ts, hsplit⟩ := List.exists_cons_of_ne_nil (split_ne_nil line)
  exact ⟨t, ts, hsplit, by rw [split_cons, if_neg hb, hsplit]; rfl⟩

/-- The identity is compared with tokens 1 and 2, so another token 0 only changes the type. -/
theorem decodeIdentity_of_other_type {p : Params} {cfg : Identity} {t t' : Token}
    {ts : List Token} {u : Update} (h : decodeIdentity p cfg (t :: ts) = .accept u)
    (ht' : t' ≠ Config.typeD) :
    decodeIdentity p cfg (t' :: ts) = .reject .unsupportedFrameType := by
  have product (x : Token) : tokenAt (x :: ts) 1 = tokenAt ts 0 := rfl
  have serial (x : Token) : tokenAt (x :: ts) 2 = tokenAt ts 1 := rfl
  have other_type : decodeType p (t' :: ts) = .reject .unsupportedFrameType := if_pos ht'
  unfold decodeIdentity at h ⊢
  rw [product, serial] at h ⊢
  split at h
  · cases h
  next hp =>
    split at h
    · cases h
    next hs => rw [if_neg hp, if_neg hs, other_type]

/-- An accepted line has passed the CRC, and its tokens pass the steps after it. -/
theorem decodeIdentity_of_decodeLine_accept {p : Params} {cfg : Identity} {line : Token}
    {u : Update} (h : decodeLine p cfg line = .accept u) :
    decodeIdentity p cfg (split line) = .accept u := by
  obtain ⟨hn, hck⟩ := checksum_of_decodeLine_accept h
  rwa [decodeLine_of_cksum p cfg (ne_nil_of_minTokens hn) (not_lt.mpr hn) hck,
    if_neg (not_not.mpr rfl)] at h

/-- Settles O49: the last token and the CRC are as before, and so are tokens 1 and 2; token 0 now
begins with a byte that no `"D"` begins with. -/
theorem leadingZeroIsUnsupported : Obligations.LeadingZeroIsUnsupported := by
  intro p cfg line u hacc
  have hcrc := crc16_coveredSpan_zero_cons p line
  refine ⟨hcrc, ?_⟩
  obtain ⟨hn, hck⟩ := checksum_of_decodeLine_accept hacc
  have hid := decodeIdentity_of_decodeLine_accept hacc
  obtain ⟨t, ts, hsplit, hsplit'⟩ :=
    split_cons_of_ne_delim (b := 0x00#8) (by decide) line
  rw [hsplit] at hn hck hid
  have hts : ts ≠ [] := by
    rintro rfl
    simp [Config.minTokens] at hn
  have hlast (x : Token) : lastToken (x :: ts) = lastToken ts := lastToken_append hts [x]
  have hck' : parseCksum (lastToken (split (0x00#8 :: line)))
      = some (crc16 (coveredSpan p (0x00#8 :: line))).toNat := by
    rw [hsplit', hlast, hcrc, ← hlast t, hck]
  have hn' : ¬ (split (0x00#8 :: line)).length < Config.minTokens := by
    rw [hsplit']
    exact not_lt.mpr hn
  rw [decodeLine_of_cksum p cfg (List.cons_ne_nil _ _) hn' hck', if_neg (not_not.mpr rfl), hsplit']
  exact decodeIdentity_of_other_type hid (by simp [Config.typeD])

end Sys2Proof.Machine
end

section
/-! The words of a context: what decodes to an operation is its encoding, and the words written out
from the tables (30_encoding.md R62 to R69, R82). -/

namespace Sys2Proof

/-! ## The byte level, the bytes of a line and the rows -/

theorem word_of_decodeByte (b : Byte) :
    (decodeByte b).context = .byte ∧ encode (decodeByte b) = [b] := by
  unfold decodeByte
  split_ifs with hlf hcr
  · exact ⟨rfl, by rw [hlf]; rfl⟩
  · exact ⟨rfl, by rw [hcr]; rfl⟩
  · exact ⟨rfl, rfl⟩

theorem word_of_decodeLineChar {b : Byte} {i : Instr} (h : decodeLineChar b = .ok i) :
    i.context = .lineChar ∧ encode i = [b] := by
  unfold decodeLineChar at h
  split_ifs at h with hb
  cases h
  exact ⟨rfl, by rw [hb]; rfl⟩

theorem word_of_mem_cksumCharRows :
    ∀ row ∈ cksumCharRows, row.2.context = .cksumChar ∧ encode row.2 = [row.1] := by decide

theorem word_of_mem_valueCharRows :
    ∀ row ∈ valueCharRows, row.2.context = .valueChar ∧ encode row.2 = [row.1] := by decide

theorem word_of_decodeCksumChar {b : Byte} {i : Instr} (h : decodeCksumChar b = .ok i) :
    i.context = .cksumChar ∧ encode i = [b] := by
  unfold decodeCksumChar at h
  split at h
  next hrow =>
    cases h
    exact word_of_mem_cksumCharRows _ (mem_of_lookupRow hrow)
  next => cases h

theorem word_of_decodeValueChar {b : Byte} {i : Instr} (h : decodeValueChar b = .ok i) :
    i.context = .valueChar ∧ encode i = [b] := by
  unfold decodeValueChar at h
  split at h
  next hrow =>
    cases h
    exact word_of_mem_valueCharRows _ (mem_of_lookupRow hrow)
  next => cases h

/-! ## Tokens -/

theorem word_of_decodeLastToken {t : Token} {i : Instr} (h : decodeLastToken t = .ok i) :
    i.context = .lastToken ∧ encode i = t := by
  cases t with
  | nil => cases h
  | cons b digits =>
    simp only [decodeLastToken] at h
    split_ifs at h with hb
    cases h
    exact ⟨rfl, by rw [hb]; rfl⟩

theorem word_of_decodeToken0 (t : Token) :
    (decodeToken0 t).context = .token0 ∧ encode (decodeToken0 t) = t := by
  unfold decodeToken0
  split_ifs with ht
  · exact ⟨rfl, ht.symm⟩
  · exact ⟨rfl, rfl⟩

theorem word_of_decodePair (value unit : Token) : (decodePair value unit).context = .pair
    ∧ encode (decodePair value unit) = value ++ Config.delimByte :: unit := by
  unfold decodePair
  split_ifs with hpa hc hrh hppm
  · exact ⟨rfl, by rw [hpa]; rfl⟩
  · exact ⟨rfl, by rw [hc]; rfl⟩
  · exact ⟨rfl, by rw [hrh]; rfl⟩
  · exact ⟨rfl, by rw [hppm]; rfl⟩
  · exact ⟨rfl, rfl⟩

/-! ## The contexts -/

theorem eq_singleton_of_decodeChar {f : Byte → Except DecodeError Instr} {t : Token} {i : Instr}
    (h : decodeChar f t = .ok i) : ∃ b, t = [b] ∧ f b = .ok i := by
  unfold decodeChar at h
  split at h
  next b => exact ⟨b, rfl, h⟩
  next => cases h

theorem word_of_decode_idTokens {t : Token} {i : Instr} (h : decode .idTokens t = .ok i) :
    i.context = .idTokens ∧ encode i = t := by
  simp only [decode] at h
  split at h
  next htwo =>
    cases h
    exact ⟨rfl, (twoTokens_some htwo).symm⟩
  next => cases h

theorem word_of_decode_pair {t : Token} {i : Instr} (h : decode .pair t = .ok i) :
    i.context = .pair ∧ encode i = t := by
  simp only [decode] at h
  split at h
  next value unit htwo =>
    cases h
    rw [twoTokens_some htwo]
    exact word_of_decodePair value unit
  next => cases h

/-- Settles O2, context by context: a row's byte is its word, and the tokens that were cut or
compared are joined again to the bytes they were cut from. -/
theorem decodedBytesAreTheOperations : Obligations.DecodedBytesAreTheOperations := by
  intro c t i h
  cases c with
  | byte =>
    obtain ⟨b, rfl, hb⟩ := eq_singleton_of_decodeChar h
    cases hb
    exact word_of_decodeByte b
  | lineChar =>
    obtain ⟨b, rfl, hb⟩ := eq_singleton_of_decodeChar h
    exact word_of_decodeLineChar hb
  | cksumChar =>
    obtain ⟨b, rfl, hb⟩ := eq_singleton_of_decodeChar h
    exact word_of_decodeCksumChar hb
  | valueChar =>
    obtain ⟨b, rfl, hb⟩ := eq_singleton_of_decodeChar h
    exact word_of_decodeValueChar hb
  | lastToken => exact word_of_decodeLastToken h
  | idTokens => exact word_of_decode_idTokens h
  | token0 =>
    cases h
    exact word_of_decodeToken0 t
  | pair => exact word_of_decode_pair h
  | condition => cases h

/-! ## Words written out -/

/-- Settles O4: each word is the encoding of its operation, which decodes to it (O1); the bytes of
the byte level are told apart by R63 (O3). -/
theorem specWordsDecode : Obligations.SpecWordsDecode := by
  have word (i : Instr) (hwf : i.wf = true) (hc : i.context ≠ .condition) :
      decode i.context (encode i) = .ok i := decodeEncodeRoundTrip i hwf hc
  refine ⟨(Machine.byteClasses 0x0A#8).1.mpr rfl, (Machine.byteClasses 0x0D#8).2.1.mpr rfl,
    (Machine.byteClasses 0x41#8).2.2 (by decide) (by decide), ?_⟩
  exact ⟨word .delim rfl (by decide), word .mark rfl (by decide), word .hexF rfl (by decide),
    word .hexFLower rfl (by decide), word .dec9 rfl (by decide), word .minus rfl (by decide),
    word (.cksum [0x43#8, 0x31#8]) rfl (by decide), word .frameD rfl (by decide),
    word (.frameOther [0x49#8]) rfl (by decide), word (.unitPa [0x37#8]) rfl (by decide),
    word (.unitPpm [0x37#8]) rfl (by decide),
    word (.unitOther [0x37#8] [0x70#8, 0x61#8]) rfl (by decide)⟩

end Sys2Proof
end
